-- ==== Sys2Proof/Word.lean ====
section
/-! DEFINITION. The value types of the machine (00_scope.md R13, R14): bytes, 16-bit words, the fields of an opcode. -/

namespace Sys2Proof

/-- `u8` (R14): the contents of a general register, a timer or a memory cell. -/
abbrev Byte := BitVec 8

/-- `u16` (R14): the contents of I, PC and a stack slot, and an opcode. -/
abbrev Word := BitVec 16

/-- The address field nnn of an opcode (30_encoding.md R81). -/
abbrev Addr12 := BitVec 12

/-- The row count n of an opcode, 0..15 (30_encoding.md R81). -/
abbrev Nibble := BitVec 4

/-- A register index, 0..15 by construction (10_state.md R24, 30_encoding.md R82). -/
abbrev RegIdx := Fin 16

/-- A key of the keypad, 0..15 (00_scope.md R11, 60_exceptions.md R264). -/
abbrev Key := Fin 16

/-- The register VF, number 15 (10_state.md R22). -/
abbrev VF : RegIdx := 15

end Sys2Proof
end

