-- ==== Sys2Proof/Config.lean ====
section
/-! DEFINITION. What an implementation fixes (00_scope.md R11, R12) and the free values: the answers of the collaborators that the spec leaves without a law. -/

namespace Sys2Proof

/-- ZERO_FAMILY_MATCH (R12, 30_encoding.md R88): whether bits 11:8 of a family-0 opcode are examined. -/
inductive ZeroFamilyMatch where
  | lowByte
  | fullWord
deriving DecidableEq, Repr

/-- VF_DEST_POLICY (R12, 42_alu.md R165): the order of the result and the flag of 8xy6 and 8xyE. -/
inductive VfDestPolicy where
  | sequential
  | flagLast
deriving DecidableEq, Repr

/-- The parameters of R12 that are neither state nor an oracle. They are fixed at construction. -/
structure Params where
  zeroFamilyMatch : ZeroFamilyMatch
  vfDestPolicy : VfDestPolicy
  loadStoreIncrementsI : Bool
deriving DecidableEq, Repr

/-- The defaults that the table of R12 gives. -/
def Params.default : Params :=
  { zeroFamilyMatch := .lowByte, vfDestPolicy := .sequential, loadStoreIncrementsI := false }

/-- MEM_SIZE (R11). -/
abbrev memSize : Nat := 4096

/-- The last address of PROTECTED_LOW (R11). -/
abbrev protectedTop : Nat := 0x1FF

/-- FONT_BASE (R11). -/
abbrev fontBase : Nat := 0x050

/-- GLYPHS (R11): 16 glyphs of 5 bytes. -/
abbrev fontSize : Nat := 80

/-- PROG_START (R11). -/
abbrev progStart : Nat := 0x200

/-- MAX_ROM (R11). -/
abbrev maxRom : Nat := 3584

/-- MAX_SPRITE_ROWS (R11). -/
abbrev maxSpriteRows : Nat := 15

/-- FONT's default bytes (20_memory.md R66).
PRESUMED (log entry 3): the spec itself takes them from general knowledge. A state may hold any other table. -/
def Config.defaultFont : Vector Byte fontSize := #v[
  0xF0, 0x90, 0x90, 0x90, 0xF0,  0x20, 0x60, 0x20, 0x20, 0x70,
  0xF0, 0x10, 0xF0, 0x80, 0xF0,  0xF0, 0x10, 0xF0, 0x10, 0xF0,
  0x90, 0x90, 0xF0, 0x10, 0x10,  0xF0, 0x80, 0xF0, 0x10, 0xF0,
  0xF0, 0x80, 0xF0, 0x90, 0xF0,  0xF0, 0x10, 0x20, 0x40, 0x40,
  0xF0, 0x90, 0xF0, 0x90, 0xF0,  0xF0, 0x90, 0xF0, 0x10, 0xF0,
  0xF0, 0x90, 0xF0, 0x90, 0x90,  0xE0, 0x90, 0xE0, 0x90, 0xE0,
  0xF0, 0x80, 0x80, 0x80, 0xF0,  0xE0, 0x90, 0x90, 0x90, 0xE0,
  0xF0, 0x80, 0xF0, 0x80, 0xF0,  0xF0, 0x80, 0xF0, 0x80, 0x80]

/-- The n-th free answer of `RandomByte()`: any u8 (60_exceptions.md R265). Free value, log entry 4. -/
opaque Config.randomByte : Nat → Byte

/-- The n-th free answer of `IsPressed(k)`: any Bool (60_exceptions.md R264). Free value, log entry 5. -/
opaque Config.keyPressed : Nat → Key → Bool

/-- The n-th free answer of `TryTakeKeyPress()`: None or any key (60_exceptions.md R264). Free value, log entry 5. -/
opaque Config.keyTaken : Nat → Option Key

/-- How many timer ticks the driver makes after a cycle that no schedule asked for: any count
(60_exceptions.md R251, 93_implementation_defined.md item 17). Free value, log entry 6. -/
opaque Config.ticks : Nat → Nat

end Sys2Proof
end

