-- ==== Sys2Proof/Syntax.lean ====
section
/-! DEFINITION. The decoded instruction: one constructor per row of the opcode map (30_encoding.md R95, R96), in the map's order, each with the operand fields its format implies (R84). -/

namespace Sys2Proof

/-- The closed sum type of R96. Every operand is in range by its type (R82), so no further check on a term exists.
`shrReg` and `shlReg` carry y as an ignored field (R96, log entry 11). -/
inductive Instr where
  /-- 00E0 -/
  | clear
  /-- 00EE -/
  | ret
  /-- 1nnn -/
  | jump (nnn : Addr12)
  /-- 2nnn -/
  | call (nnn : Addr12)
  /-- 3xkk -/
  | skipEqualImm (x : RegIdx) (kk : Byte)
  /-- 4xkk -/
  | skipNotEqualImm (x : RegIdx) (kk : Byte)
  /-- 5xy0 -/
  | skipEqualReg (x y : RegIdx)
  /-- 6xkk -/
  | loadImm (x : RegIdx) (kk : Byte)
  /-- 7xkk -/
  | addImm (x : RegIdx) (kk : Byte)
  /-- 8xy0 -/
  | loadReg (x y : RegIdx)
  /-- 8xy1 -/
  | orReg (x y : RegIdx)
  /-- 8xy2 -/
  | andReg (x y : RegIdx)
  /-- 8xy3 -/
  | xorReg (x y : RegIdx)
  /-- 8xy4 -/
  | addReg (x y : RegIdx)
  /-- 8xy5 -/
  | subReg (x y : RegIdx)
  /-- 8xy6 -/
  | shrReg (x y : RegIdx)
  /-- 8xy7 -/
  | subnReg (x y : RegIdx)
  /-- 8xyE -/
  | shlReg (x y : RegIdx)
  /-- 9xy0 -/
  | skipNotEqualReg (x y : RegIdx)
  /-- Annn -/
  | setIndex (nnn : Addr12)
  /-- Bnnn -/
  | jumpWithV0 (nnn : Addr12)
  /-- Cxkk -/
  | random (x : RegIdx) (kk : Byte)
  /-- Dxyn -/
  | draw (x y : RegIdx) (n : Nibble)
  /-- Ex9E -/
  | skipKeyPressed (x : RegIdx)
  /-- ExA1 -/
  | skipKeyNotPressed (x : RegIdx)
  /-- Fx07 -/
  | loadDelay (x : RegIdx)
  /-- Fx0A -/
  | waitKey (x : RegIdx)
  /-- Fx15 -/
  | setDelay (x : RegIdx)
  /-- Fx18 -/
  | setSound (x : RegIdx)
  /-- Fx1E -/
  | addIndex (x : RegIdx)
  /-- Fx29 -/
  | loadFont (x : RegIdx)
  /-- Fx33 -/
  | storeBcd (x : RegIdx)
  /-- Fx55 -/
  | storeRegisters (x : RegIdx)
  /-- Fx65 -/
  | loadRegisters (x : RegIdx)
deriving DecidableEq, Repr

end Sys2Proof
end

