-- ==== Sys2Proof/WellFormed.lean ====
section
/-! DEFINITION. Which opcodes are legal: the opcode map as data (30_encoding.md R95) and the check that an opcode selects one of its rows.

The operands of a decoded instruction need no check of their own: `Instr` types them in range, and R82 asks that this
precondition be recorded rather than checked. What can be ill-formed is a 16-bit word, and the check here refuses it (R97).
Decode.lean does not use this file's map: it follows the two-level dispatch of R86, and that the two agree is a statement. -/

namespace Sys2Proof

/-- A row of the opcode map: an opcode `op` selects it when `op & mask == value` (R95). -/
structure OpcodeRow where
  mask : Word
  value : Word
deriving DecidableEq, Repr

/-- The mask of rows 1 and 2 (R95): F0FF under LowByte, FFFF under FullWord. -/
def zeroFamilyMask : ZeroFamilyMatch → Word
  | .lowByte => 0xF0FF
  | .fullWord => 0xFFFF

/-- Rows 1 to 9 of R95: 00E0 00EE 1nnn 2nnn 3xkk 4xkk 5xy0 6xkk 7xkk. -/
def opcodeRowsLow (z : ZeroFamilyMatch) : List OpcodeRow :=
  [⟨zeroFamilyMask z, 0x00E0⟩, ⟨zeroFamilyMask z, 0x00EE⟩, ⟨0xF000, 0x1000⟩, ⟨0xF000, 0x2000⟩, ⟨0xF000, 0x3000⟩,
   ⟨0xF000, 0x4000⟩, ⟨0xF00F, 0x5000⟩, ⟨0xF000, 0x6000⟩, ⟨0xF000, 0x7000⟩]

/-- Rows 10 to 18 of R95: 8xy0 to 8xy7 and 8xyE. -/
def opcodeRowsArith : List OpcodeRow :=
  [⟨0xF00F, 0x8000⟩, ⟨0xF00F, 0x8001⟩, ⟨0xF00F, 0x8002⟩, ⟨0xF00F, 0x8003⟩, ⟨0xF00F, 0x8004⟩, ⟨0xF00F, 0x8005⟩,
   ⟨0xF00F, 0x8006⟩, ⟨0xF00F, 0x8007⟩, ⟨0xF00F, 0x800E⟩]

/-- Rows 19 to 34 of R95: 9xy0 Annn Bnnn Cxkk Dxyn, the two Ex__ and the nine Fx__ forms. -/
def opcodeRowsHigh : List OpcodeRow :=
  [⟨0xF00F, 0x9000⟩, ⟨0xF000, 0xA000⟩, ⟨0xF000, 0xB000⟩, ⟨0xF000, 0xC000⟩, ⟨0xF000, 0xD000⟩,
   ⟨0xF0FF, 0xE09E⟩, ⟨0xF0FF, 0xE0A1⟩,
   ⟨0xF0FF, 0xF007⟩, ⟨0xF0FF, 0xF00A⟩, ⟨0xF0FF, 0xF015⟩, ⟨0xF0FF, 0xF018⟩, ⟨0xF0FF, 0xF01E⟩,
   ⟨0xF0FF, 0xF029⟩, ⟨0xF0FF, 0xF033⟩, ⟨0xF0FF, 0xF055⟩, ⟨0xF0FF, 0xF065⟩]

/-- The opcode map of R95: 34 rows. -/
def opcodeMap (z : ZeroFamilyMatch) : List OpcodeRow :=
  opcodeRowsLow z ++ opcodeRowsArith ++ opcodeRowsHigh

/-- `op & mask == value` (R95). -/
def OpcodeRow.selects (r : OpcodeRow) (op : Word) : Bool :=
  op &&& r.mask == r.value

/-- A word is well-formed when it selects a row of the map. Every other word is illegal (R97). -/
def wellFormedOpcode (z : ZeroFamilyMatch) (op : Word) : Bool :=
  (opcodeMap z).any (·.selects op)

end Sys2Proof
end

