-- ==== Sys2Proof/Decode.lean ====
section
/-! DEFINITION. The decoder (30_encoding.md R85 to R93), total on every word and on every list of bytes, the encoder from the encoding tables (R84, R95), and the host's view of the decoder by table words. -/

namespace Sys2Proof

/-! ## Fields (R81) -/

/-- `op[15:12]`, the family. -/
def fieldHi (op : Word) : BitVec 4 := op.extractLsb' 12 4

/-- `op[11:0]`. -/
def fieldNnn (op : Word) : Addr12 := op.extractLsb' 0 12

/-- `op[11:8]` as a register index. -/
def fieldX (op : Word) : RegIdx := (op.extractLsb' 8 4).toFin

/-- `op[7:4]` as a register index. -/
def fieldY (op : Word) : RegIdx := (op.extractLsb' 4 4).toFin

/-- `op[7:0]`. -/
def fieldKk (op : Word) : Byte := op.extractLsb' 0 8

/-- `op[3:0]`. -/
def fieldN (op : Word) : Nibble := op.extractLsb' 0 4

/-! ## The decoder (R85) -/

/-- The decoder's one error kind (R87). -/
inductive DecodeError where
  /-- The opcode selects no instruction (R97). -/
  | unknownInstruction (opcode : Word)
deriving DecidableEq, Repr

/-- Family 0x0 (R88), keyed on the low byte; under FullWord on the whole word. There is no SYS. -/
def decodeZero (z : ZeroFamilyMatch) (op : Word) : Option Instr :=
  if z = .fullWord ∧ op.extractLsb' 8 4 ≠ 0 then none else
  match (fieldKk op).toNat with
  | 0xE0 => some .clear
  | 0xEE => some .ret
  | _ => none

/-- Family 0x5 (R89), keyed on the low nibble. -/
def decodeFive (op : Word) : Option Instr :=
  if fieldN op = 0 then some (.skipEqualReg (fieldX op) (fieldY op)) else none

/-- Family 0x8 (R90), keyed on the low nibble. -/
def decodeEight (op : Word) : Option Instr :=
  match (fieldN op).toNat with
  | 0x0 => some (.loadReg (fieldX op) (fieldY op))
  | 0x1 => some (.orReg (fieldX op) (fieldY op))
  | 0x2 => some (.andReg (fieldX op) (fieldY op))
  | 0x3 => some (.xorReg (fieldX op) (fieldY op))
  | 0x4 => some (.addReg (fieldX op) (fieldY op))
  | 0x5 => some (.subReg (fieldX op) (fieldY op))
  | 0x6 => some (.shrReg (fieldX op) (fieldY op))
  | 0x7 => some (.subnReg (fieldX op) (fieldY op))
  | 0xE => some (.shlReg (fieldX op) (fieldY op))
  | _ => none

/-- Family 0x9 (R89), keyed on the low nibble. -/
def decodeNine (op : Word) : Option Instr :=
  if fieldN op = 0 then some (.skipNotEqualReg (fieldX op) (fieldY op)) else none

/-- Family 0xE (R91), keyed on the low byte. -/
def decodeE (op : Word) : Option Instr :=
  match (fieldKk op).toNat with
  | 0x9E => some (.skipKeyPressed (fieldX op))
  | 0xA1 => some (.skipKeyNotPressed (fieldX op))
  | _ => none

/-- Family 0xF (R92), keyed on the low byte. -/
def decodeF (op : Word) : Option Instr :=
  match (fieldKk op).toNat with
  | 0x07 => some (.loadDelay (fieldX op))
  | 0x0A => some (.waitKey (fieldX op))
  | 0x15 => some (.setDelay (fieldX op))
  | 0x18 => some (.setSound (fieldX op))
  | 0x1E => some (.addIndex (fieldX op))
  | 0x29 => some (.loadFont (fieldX op))
  | 0x33 => some (.storeBcd (fieldX op))
  | 0x55 => some (.storeRegisters (fieldX op))
  | 0x65 => some (.loadRegisters (fieldX op))
  | _ => none

/-- Dispatch on the high nibble (R86): the families with a second level above, the others by R93. -/
def decodeFamily (z : ZeroFamilyMatch) (op : Word) : Option Instr :=
  match (fieldHi op).toNat with
  | 0x0 => decodeZero z op
  | 0x1 => some (.jump (fieldNnn op))
  | 0x2 => some (.call (fieldNnn op))
  | 0x3 => some (.skipEqualImm (fieldX op) (fieldKk op))
  | 0x4 => some (.skipNotEqualImm (fieldX op) (fieldKk op))
  | 0x5 => decodeFive op
  | 0x6 => some (.loadImm (fieldX op) (fieldKk op))
  | 0x7 => some (.addImm (fieldX op) (fieldKk op))
  | 0x8 => decodeEight op
  | 0x9 => decodeNine op
  | 0xA => some (.setIndex (fieldNnn op))
  | 0xB => some (.jumpWithV0 (fieldNnn op))
  | 0xC => some (.random (fieldX op) (fieldKk op))
  | 0xD => some (.draw (fieldX op) (fieldY op) (fieldN op))
  | 0xE => decodeE op
  | _ => decodeF op

/-- `decode(opcode) -> Instruction | UnknownInstruction` (R85, R87): pure and total. -/
def decode (z : ZeroFamilyMatch) (op : Word) : Except DecodeError Instr :=
  match decodeFamily z op with
  | some i => .ok i
  | none => .error (.unknownInstruction op)

/-! ## Bytes (R80: big-endian, two bytes an instruction) -/

/-- The 16-bit value of two bytes, high byte first (20_memory.md R52). -/
def wordOfBytes (hi lo : Byte) : Word := hi ++ lo

/-- `v >> 8` (20_memory.md R58). -/
def highByte (w : Word) : Byte := w.extractLsb' 8 8

/-- `v & 0xFF` (20_memory.md R58). -/
def lowByte (w : Word) : Byte := w.extractLsb' 0 8

/-- Why a list of bytes gives no instruction. -/
inductive ByteDecodeError where
  /-- Fewer than two bytes are left. The machine's own fetch never meets this: it checks PC first (40_cycle.md R111). -/
  | truncated
  /-- The decoder's error (R87). -/
  | decode (e : DecodeError)
deriving DecidableEq, Repr

/-- Reads one instruction from a list of bytes and gives the rest of the list. -/
def decodeBytes (z : ZeroFamilyMatch) : List Byte → Except ByteDecodeError (Instr × List Byte)
  | hi :: lo :: rest =>
    match decode z (wordOfBytes hi lo) with
    | .ok i => .ok (i, rest)
    | .error e => .error (.decode e)
  | _ => .error .truncated

/-! ## The encoder (R84, R95) -/

/-- F_ADDR: `hhhh nnnn nnnn nnnn`. -/
def encodeAddr (h : BitVec 4) (nnn : Addr12) : Word := h ++ nnn

/-- F_XKK: `hhhh xxxx kkkk kkkk`. Also F_X, whose sub-opcode byte stands at kk. -/
def encodeXkk (h : BitVec 4) (x : RegIdx) (kk : Byte) : Word := h ++ (BitVec.ofFin x : BitVec 4) ++ kk

/-- F_XYN: `hhhh xxxx yyyy nnnn`. Also F_XY, whose sub-opcode nibble stands at n. -/
def encodeXyn (h : BitVec 4) (x y : RegIdx) (n : Nibble) : Word :=
  h ++ (BitVec.ofFin x : BitVec 4) ++ (BitVec.ofFin y : BitVec 4) ++ n

/-- The opcode of an instruction. Bits 11:8 of 00E0 and 00EE are written 0, which both values of
ZERO_FAMILY_MATCH accept (R88). DESIGN CHOICE, log entry 12. -/
def encode : Instr → Word
  | .clear => 0x00E0
  | .ret => 0x00EE
  | .jump nnn => encodeAddr 0x1 nnn
  | .call nnn => encodeAddr 0x2 nnn
  | .skipEqualImm x kk => encodeXkk 0x3 x kk
  | .skipNotEqualImm x kk => encodeXkk 0x4 x kk
  | .skipEqualReg x y => encodeXyn 0x5 x y 0x0
  | .loadImm x kk => encodeXkk 0x6 x kk
  | .addImm x kk => encodeXkk 0x7 x kk
  | .loadReg x y => encodeXyn 0x8 x y 0x0
  | .orReg x y => encodeXyn 0x8 x y 0x1
  | .andReg x y => encodeXyn 0x8 x y 0x2
  | .xorReg x y => encodeXyn 0x8 x y 0x3
  | .addReg x y => encodeXyn 0x8 x y 0x4
  | .subReg x y => encodeXyn 0x8 x y 0x5
  | .shrReg x y => encodeXyn 0x8 x y 0x6
  | .subnReg x y => encodeXyn 0x8 x y 0x7
  | .shlReg x y => encodeXyn 0x8 x y 0xE
  | .skipNotEqualReg x y => encodeXyn 0x9 x y 0x0
  | .setIndex nnn => encodeAddr 0xA nnn
  | .jumpWithV0 nnn => encodeAddr 0xB nnn
  | .random x kk => encodeXkk 0xC x kk
  | .draw x y n => encodeXyn 0xD x y n
  | .skipKeyPressed x => encodeXkk 0xE x 0x9E
  | .skipKeyNotPressed x => encodeXkk 0xE x 0xA1
  | .loadDelay x => encodeXkk 0xF x 0x07
  | .waitKey x => encodeXkk 0xF x 0x0A
  | .setDelay x => encodeXkk 0xF x 0x15
  | .setSound x => encodeXkk 0xF x 0x18
  | .addIndex x => encodeXkk 0xF x 0x1E
  | .loadFont x => encodeXkk 0xF x 0x29
  | .storeBcd x => encodeXkk 0xF x 0x33
  | .storeRegisters x => encodeXkk 0xF x 0x55
  | .loadRegisters x => encodeXkk 0xF x 0x65

/-- The two bytes of an instruction as they lie in memory (R80). -/
def encodeBytes (i : Instr) : List Byte := [highByte (encode i), lowByte (encode i)]

/-! ## The host's view -/

/-- The word the opcode table numbers as `w`, of which `nbits` bits are given: the bits above are 0. -/
def tableWord (nbits w : Nat) : Word := BitVec.ofNat 16 (w % 2 ^ nbits)

/-- The instruction the decoder reads from a table word, its bytes laid out big-endian, under the default LowByte (R12). -/
def decodeTableWord (nbits w : Nat) : Option Instr :=
  match decodeBytes Params.default.zeroFamilyMatch [highByte (tableWord nbits w), lowByte (tableWord nbits w)] with
  | .ok (i, _) => some i
  | .error _ => none

end Sys2Proof
end

