-- ==== Sys2Proof/Machine/State.lean ====
section
/-! DEFINITION. The machine's state as plain data (10_state.md R20), the errors (60_exceptions.md R241), the host's calls and answers (R260), the reasons a step can stop, construction and reset (10_state.md R41). -/

namespace Sys2Proof.Machine

/-- The error kinds of R241 in the order of their codes, with what each records. -/
inductive CoreError where
  /-- Code 1, by the fetch when PC > 0xFFE (40_cycle.md R111). Never wrapped. -/
  | invalidProgramCounter (pc : Word)
  /-- Code 2, the wrapper of any error raised by decode or dispatch (40_cycle.md R116). -/
  | instructionExecutionFailed (opcode address : Word) (cause : CoreError)
  /-- Code 3, by decode (30_encoding.md R97). -/
  | unknownInstruction (opcode : Word)
  /-- Code 4, by Call with SP = 16 (41_control_flow.md R131). -/
  | stackOverflow
  /-- Code 5, by Return with SP = 0 (41_control_flow.md R130). -/
  | stackUnderflow
  /-- Code 6, by nothing (10_state.md R24). -/
  | invalidRegister (index : Nat)
  /-- Code 7, by Draw, StoreBcd, StoreRegisters, LoadRegisters and the host's byte accesses (20_memory.md R53). -/
  | outOfBounds (address : Int)
  /-- Code 8, by StoreBcd, StoreRegisters and the host's writes (20_memory.md R56). -/
  | writeProtected (address : Int)
  /-- Code 9, by LoadFont (43_index_memory.md R182) and the host's fontGlyphAddress. -/
  | invalidFontDigit (digit : Int)
  /-- Code 10, by the host's loadRom (20_memory.md R61). -/
  | romTooLarge (size : Nat)
  /-- Code 11, by the host's word accesses (20_memory.md R57, R58). -/
  | wordOutOfBounds (address : Int)
  /-- Code 12, by Draw with n = 0 (44_display.md R205). -/
  | emptySpriteData
  /-- Code 13, by drawSprite with more than 15 rows (44_display.md R203). No cycle reaches it. -/
  | spriteTooTall (rows : Nat)
  /-- Code 14, by nothing: keys are masked (45_input_timers.md R220). -/
  | invalidKey (key : Nat)
deriving DecidableEq, Repr

/-- Exec (10_state.md R36): an explicit tagged state. -/
inductive ExecState where
  | running
  | waitingForKey (target : RegIdx)
deriving DecidableEq, Repr

/-- Mem (10_state.md R35): the FONT table fixed at construction (20_memory.md R66), and the bytes that differ from
the reset contents, as (address, byte) pairs with rising addresses. An unlisted address reads as `Memory.blank`. -/
structure Memory where
  font : Vector Byte fontSize
  cells : List Host.Cell
deriving DecidableEq, Repr

/-- FB (10_state.md R37): 64 x 32 Bool, row-major, 32 rows of 64 cells. -/
structure FrameBuffer where
  rows : Vector (Vector Bool 64) 32
deriving DecidableEq, Repr

/-- The environment's answers. An injected answer (60_exceptions.md R265) is used first, oldest first.
When none is left the answer is a free value of Config applied to `draws`. The MODEL's own state, log entries 4 and 5. -/
structure Oracle where
  randomBytes : List Byte
  keyStates : List Bool
  keyPresses : List (Option Key)
  draws : Nat
deriving DecidableEq, Repr

/-- The calls the host makes on the core's ports (60_exceptions.md R260) and on the memory controller (20_memory.md R76,
whose own reset is `memoryReset`; `reset` is the machine reset). Host addresses, digits and coordinates are
integers (20_memory.md R76, 44_display.md R206). -/
inductive HostCall where
  | executeCycle
  | updateTimers
  | reset
  | loadRom (bytes : List Byte)
  | readByte (address : Int)
  | writeByte (address : Int) (value : Byte)
  | readWord (address : Int)
  | writeWord (address : Int) (value : Word)
  | memoryDump
  | memoryReset
  | fontGlyphAddress (digit : Int)
  | getPixel (x y : Int)
  | setPixel (x y : Int) (value : Bool)
  | stats
  | shouldBeep
  | decodeOpcode (opcode : Word)
deriving DecidableEq, Repr

/-- What a port gives back to the host (60_exceptions.md R260, R268). -/
inductive HostAnswer where
  | done
  | error (e : CoreError)
  | byte (value : Byte)
  | word (value : Word)
  | bytes (values : List Byte)
  | bool (value : Bool)
  | stats (width height pixelsOn pixelsTotal : Nat)
  | decoded (instruction : Instr)
deriving DecidableEq, Repr

/-- The machine's state (10_state.md R20), the parameters of 00_scope.md R12 that are fixed at construction, and
three fields of the MODEL's own: `oracle` (log entries 4, 5), `schedule` (log entry 7), `hostAnswer` (log entry 8). -/
structure State where
  /-- V0..VF (R21) -/
  v : Vector Byte 16
  /-- I (R25) -/
  i : Word
  /-- PC (R26) -/
  pc : Word
  /-- SP, 0..16: the number of entries in use (R29) -/
  sp : Fin 17
  /-- Stack[0..15] (R29) -/
  stack : Vector Word 16
  /-- DT (R31) -/
  dt : Byte
  /-- ST (R31) -/
  st : Byte
  /-- Exec (R36) -/
  execState : ExecState
  /-- Mem (R35) -/
  mem : Memory
  /-- FB (R37) -/
  fb : FrameBuffer
  /-- WP (R40) -/
  wp : Bool
  /-- Fault (R38) -/
  fault : Option CoreError
  /-- The parameters fixed at construction (00_scope.md R12) -/
  params : Params
  /-- MODEL: the environment's injected answers and the count of free draws -/
  oracle : Oracle
  /-- MODEL: the host calls the driver has decided on, oldest first -/
  schedule : List HostCall
  /-- MODEL: what the latest host call but executeCycle gave back, an output -/
  hostAnswer : Option HostAnswer
deriving DecidableEq, Repr

/-- Why a step stops with a fault. -/
inductive Fault where
  /-- Raised by `cycle` when the driver asks a Faulted machine for a further cycle: no such step exists until a reset
  (40_cycle.md R121, 60_exceptions.md R246). It carries the Fault record. SAFE: the model has fewer runs. Log entry 9. -/
  | machineFaulted (e : CoreError)
deriving DecidableEq, Repr

/-- Why a step is refused. -/
inductive Refusal where
  /-- Raised by a rejected arm of `exec` for an instruction without a meaning. No arm is rejected now. SAFE. -/
  | notModelled (mnemonic : String)
deriving DecidableEq, Repr

/-- The outcome of one step or one instruction. -/
abbrev Result := Host.Outcome State Fault Refusal

/-- The construction state (10_state.md R41, 70_reset_and_hazards.md R280), with the parameters of 00_scope.md R12 as arguments. -/
def State.construct (writeProtect : Bool) (params : Params) (font : Vector Byte fontSize) : State where
  v := Vector.replicate 16 0
  i := 0
  pc := 0x200
  sp := 0
  stack := Vector.replicate 16 0
  dt := 0
  st := 0
  execState := .running
  mem := { font := font, cells := [] }
  fb := { rows := Vector.replicate 32 (Vector.replicate 64 false) }
  wp := writeProtect
  fault := none
  params := params
  oracle := { randomBytes := [], keyStates := [], keyPresses := [], draws := 0 }
  schedule := []
  hostAnswer := none

/-- The machine right after construction and reset, with the parameters' defaults (R12). WRITE_PROTECT has no default in
the spec: DESIGN CHOICE false (log entry 2). FONT's default is PRESUMED (log entry 3). -/
def State.reset : State :=
  State.construct false Params.default Config.defaultFont

end Sys2Proof.Machine
end

