-- ==== Sys2Proof/Machine/Ops.lean ====
section
/-! DEFINITION. The named operations: memory (20_memory.md), registers, PC and call stack (10_state.md), the framebuffer's cells, the timers, the environment's answers, failing a cycle and the resets. -/

namespace Sys2Proof.Machine

/-! ## Memory -/

/-- The reset contents of an address (20_memory.md R63): FONT at 0x050..0x09F, 0 elsewhere. What an unlisted address reads as. -/
def Memory.blank (m : Memory) (a : Nat) : Byte :=
  if h : fontBase ≤ a ∧ a < fontBase + fontSize then m.font[a - fontBase]'(by omega) else 0

/-- The byte listed for an address, if one is. -/
def lookupCell : List Host.Cell → Nat → Option Byte
  | [], _ => none
  | (k, b) :: rest, a => if k = a then some b else lookupCell rest a

/-- `Mem[a]`. -/
def Memory.get (m : Memory) (a : Nat) : Byte :=
  (lookupCell m.cells a).getD (m.blank a)

/-- Lists a byte for an address, in the place the address order gives it. -/
def insertCell : List Host.Cell → Nat → Byte → List Host.Cell
  | [], a, b => [(a, b)]
  | (k, c) :: rest, a, b =>
    if a < k then (a, b) :: (k, c) :: rest
    else if a = k then (a, b) :: rest
    else (k, c) :: insertCell rest a b

/-- `Mem[a] <- b`, keeping the canonical form: a byte equal to the reset contents is not listed. -/
def Memory.poke (m : Memory) (a : Nat) (b : Byte) : Memory :=
  if b = m.blank a then { m with cells := m.cells.filter (fun c => c.1 != a) }
  else { m with cells := insertCell m.cells a b }

/-- The canonical form: addresses strictly rising and inside Mem, and no entry equal to what an unlisted address reads as. -/
abbrev Memory.wf (m : Memory) : Prop :=
  m.cells.Pairwise (fun c d => c.1 < d.1) ∧ ∀ c ∈ m.cells, c.1 < memSize ∧ c.2 ≠ m.blank c.1

/-- Stores bytes at consecutive addresses from `a` on. -/
def Memory.storeBytes (m : Memory) (a : Nat) : List Byte → Memory
  | [] => m
  | b :: rest => (m.poke a b).storeBytes (a + 1) rest

/-- The `n` bytes from `a` on. -/
def Memory.bytesFrom (m : Memory) (a n : Nat) : List Byte :=
  (List.range n).map (fun k => m.get (a + k))

/-- The big-endian word at `a` (R52). -/
def Memory.wordAt (m : Memory) (a : Nat) : Word :=
  wordOfBytes (m.get a) (m.get (a + 1))

/-- Memory reset (R63): every byte at its reset contents, FONT restored verbatim. -/
def Memory.reset (m : Memory) : Memory :=
  { m with cells := [] }

/-- `readByte` (R55). -/
def Memory.readByte (m : Memory) (a : Int) : Except CoreError Byte :=
  if 0 ≤ a ∧ a < memSize then .ok (m.get a.toNat) else .error (.outOfBounds a)

/-- `writeByte` (R56). -/
def Memory.writeByte (wp : Bool) (m : Memory) (a : Int) (b : Byte) : Except CoreError Memory :=
  if 0 ≤ a ∧ a < memSize then
    if wp ∧ a ≤ protectedTop then .error (.writeProtected a) else .ok (m.poke a.toNat b)
  else .error (.outOfBounds a)

/-- `readWord` (R57). -/
def Memory.readWord (m : Memory) (a : Int) : Except CoreError Word :=
  if 0 ≤ a ∧ a + 1 < memSize then .ok (m.wordAt a.toNat) else .error (.wordOutOfBounds a)

/-- `writeWord` (R58): both checks come before either byte changes. -/
def Memory.writeWord (wp : Bool) (m : Memory) (a : Int) (w : Word) : Except CoreError Memory :=
  if 0 ≤ a ∧ a + 1 < memSize then
    if wp ∧ a ≤ protectedTop then .error (.writeProtected a)
    else .ok (m.storeBytes a.toNat [highByte w, lowByte w])
  else .error (.wordOutOfBounds a)

/-- `loadRom` (R60, R61). WP does not affect it. -/
def Memory.loadRom (m : Memory) (bytes : List Byte) : Except CoreError Memory :=
  if bytes.length > maxRom then .error (.romTooLarge bytes.length) else .ok (m.storeBytes progStart bytes)

/-- `fontGlyphAddress` (R62). -/
def fontGlyphAddress (digit : Int) : Except CoreError Word :=
  if 0 ≤ digit ∧ digit ≤ 15 then .ok (BitVec.ofNat 16 (fontBase + digit.toNat * 5)) else .error (.invalidFontDigit digit)

/-- `Check` of 43_index_memory.md R183 over `count` addresses from `a` on, in ascending order: the first failure, if any. -/
def firstBadAddress (wp write : Bool) : Nat → Nat → Option CoreError
  | _, 0 => none
  | a, count + 1 =>
    if a ≥ memSize then some (.outOfBounds a)
    else if write ∧ wp ∧ a ≤ protectedTop then some (.writeProtected a)
    else firstBadAddress wp write (a + 1) count

/-! ## Registers, PC, stack -/

/-- `V[x]` (10_state.md R21). -/
def State.getV (s : State) (x : RegIdx) : Byte := s.v[x]

/-- `V[x] <- b`. -/
def State.setV (s : State) (x : RegIdx) (b : Byte) : State :=
  { s with v := s.v.set x b }

/-- The fetch's advance `PC <- PC + 2` (40_cycle.md R112). -/
def State.advance (s : State) : State :=
  { s with pc := s.pc + 2 }

/-- A skip adds 2 to PC and nothing else (41_control_flow.md R138). -/
def State.skip (s : State) : State :=
  { s with pc := s.pc + 2 }

/-- `PC <- target`. -/
def State.jumpTo (s : State) (target : Word) : State :=
  { s with pc := target }

/-- `I <- v`. -/
def State.setI (s : State) (w : Word) : State :=
  { s with i := w }

/-- Push PC (10_state.md R29, 41_control_flow.md R131): write `Stack[SP]`, then increment SP. -/
def State.push (s : State) : Except CoreError State :=
  if h : s.sp.val < 16 then
    .ok { s with stack := s.stack.set s.sp.val s.pc h, sp := ⟨s.sp.val + 1, by omega⟩ }
  else .error .stackOverflow

/-- Pop into PC (10_state.md R29, 41_control_flow.md R130): decrement SP, then read `Stack[SP]`. -/
def State.pop (s : State) : Except CoreError State :=
  if h : s.sp.val = 0 then .error .stackUnderflow
  else .ok { s with sp := ⟨s.sp.val - 1, by omega⟩, pc := s.stack[s.sp.val - 1]'(by omega) }

/-! ## Fetching, and failing a cycle -/

/-- The bounds step of the fetch (40_cycle.md R111). -/
def State.fetchable (s : State) : Bool :=
  s.pc.toNat < memSize && s.pc.toNat + 1 < memSize

/-- The opcode at PC, big-endian (40_cycle.md R112). -/
def State.fetchOpcode (s : State) : Word := s.mem.wordAt s.pc.toNat

/-- The fetch address `fa` of the instruction being executed: PC = fa + 2 from the fetch's advance to the end of the
cycle (10_state.md R26), and an instruction fails before it writes any state (40_cycle.md R117). DEDUCED, log entry 10. -/
def State.fetchAddress (s : State) : Word := s.pc - 2

/-- The opcode of the instruction being executed, `Mem[fa] * 256 + Mem[fa + 1]` (40_cycle.md R112). DEDUCED, log entry 10. -/
def State.currentOpcode (s : State) : Word := s.mem.wordAt s.fetchAddress.toNat

/-- A failed instruction (40_cycle.md R116, R117): the error wrapped with the opcode and the fetch address goes into the
Fault record, and nothing else changes. The ONE operation through which every error of decode and dispatch goes. -/
def State.fail (s : State) (e : CoreError) : State :=
  { s with fault := some (.instructionExecutionFailed s.currentOpcode s.fetchAddress e) }

/-- The outcome of an instruction that may fail (40_cycle.md R120): both ways the cycle ends in a next state. -/
def State.complete (s : State) : Except CoreError State → Result
  | .ok t => .next t
  | .error e => .next (s.fail e)

/-- A fetch at PC > 0xFFE (40_cycle.md R111, R116): unwrapped, PC not advanced, nothing but Fault changes. -/
def State.failFetch (s : State) : State :=
  { s with fault := some (.invalidProgramCounter s.pc) }

/-! ## Framebuffer cells -/

/-- `FB[x][y]`. -/
def FrameBuffer.get (fb : FrameBuffer) (x : Fin 64) (y : Fin 32) : Bool := fb.rows[y][x]

/-- `FB[x][y] <- b`. -/
def FrameBuffer.set (fb : FrameBuffer) (x : Fin 64) (y : Fin 32) (b : Bool) : FrameBuffer :=
  { fb with rows := fb.rows.set y (fb.rows[y].set x b) }

/-- `clear()` (44_display.md R201). -/
def FrameBuffer.clear (_ : FrameBuffer) : FrameBuffer :=
  { rows := Vector.replicate 32 (Vector.replicate 64 false) }

/-! ## Resets -/

/-- The CPU reset (70_reset_and_hazards.md R281). -/
def State.cpuReset (s : State) : State :=
  { s with
    v := Vector.replicate 16 0, i := 0, pc := 0x200, sp := 0, stack := Vector.replicate 16 0,
    dt := 0, st := 0, execState := .running }

/-- The machine reset (70_reset_and_hazards.md R282), the only way out of Faulted (60_exceptions.md R248): CPU, memory,
display, then the Fault record. WP, the parameters and FONT stay, and the environment is not reset. -/
def State.machineReset (s : State) : State :=
  let s := s.cpuReset
  let s := { s with mem := s.mem.reset }
  let s := { s with fb := s.fb.clear }
  { s with fault := none }

/-! ## Timers -/

/-- One timer's tick: decrements by 1 if currently > 0 (60_exceptions.md R250). -/
def tickDown (t : Byte) : Byte := if t = 0 then t else t - 1

/-- `updateTimers()` (60_exceptions.md R250). -/
def State.updateTimers (s : State) : State :=
  { s with dt := tickDown s.dt, st := tickDown s.st }

/-- A timer after `n` ticks. A stopped timer stays 0 however many ticks come. -/
def tickDownBy (n : Nat) (t : Byte) : Byte := if t = 0 then t else BitVec.ofNat 8 (t.toNat - n)

/-- `n` ticks at once, without iterating. -/
def State.tickMany (n : Nat) (s : State) : State :=
  { s with dt := tickDownBy n s.dt, st := tickDownBy n s.st }

/-- `shouldBeep()` (60_exceptions.md R252). -/
def State.shouldBeep (s : State) : Bool := 0 < s.st.toNat

/-! ## The environment's answers -/

/-- Counts one free value as drawn. -/
def State.countDraw (s : State) : State :=
  { s with oracle := { s.oracle with draws := s.oracle.draws + 1 } }

/-- `RandomByte()` (60_exceptions.md R265): the oldest injected byte, else a free value. Log entry 4. -/
def State.randomByte (s : State) : Byte × State :=
  match s.oracle.randomBytes with
  | b :: rest => (b, { s with oracle := { s.oracle with randomBytes := rest } })
  | [] => (Config.randomByte s.oracle.draws, s.countDraw)

/-- `IsPressed(k)` (60_exceptions.md R264): the oldest injected answer, else a free value. Log entry 5. -/
def State.isPressed (s : State) (k : Key) : Bool × State :=
  match s.oracle.keyStates with
  | b :: rest => (b, { s with oracle := { s.oracle with keyStates := rest } })
  | [] => (Config.keyPressed s.oracle.draws k, s.countDraw)

/-- `TryTakeKeyPress()` (60_exceptions.md R264): the oldest injected answer, else a free value. Log entry 5. -/
def State.takeKey (s : State) : Option Key × State :=
  match s.oracle.keyPresses with
  | k :: rest => (k, { s with oracle := { s.oracle with keyPresses := rest } })
  | [] => (Config.keyTaken s.oracle.draws, s.countDraw)

/-- The driver's ticks after a cycle that no schedule asked for: a free number (60_exceptions.md R251). Log entry 6. -/
def State.freeTicks (s : State) : State :=
  (s.tickMany (Config.ticks s.oracle.draws)).countDraw

end Sys2Proof.Machine
end

