-- ==== Sys2Proof/Machine/Operands.lean ====
section
/-! DEFINITION. The operand forms: immediates at the width they are used at (30_encoding.md R83), a key number, the bytes at I (43_index_memory.md R183), the registers V0..Vx. -/

namespace Sys2Proof.Machine

/-- `zext_16(nnn)` (30_encoding.md R83). -/
def zextAddr (nnn : Addr12) : Word := nnn.setWidth 16

/-- `zext_16(b)`. -/
def zextByte (b : Byte) : Word := b.setWidth 16

/-- `V[x] & 0xF` as a key (45_input_timers.md R220). -/
def State.keyOperand (s : State) (x : RegIdx) : Key := Fin.ofNat 16 (s.getV x &&& 0xF).toNat

/-- A key's number as a register value. -/
def keyByte (k : Key) : Byte := BitVec.ofNat 8 k.val

/-- The effective address of the k-th byte at I, on integers with no wrap (20_memory.md R54). -/
def State.ea (s : State) (k : Nat) : Nat := s.i.toNat + k

/-- `Check(count, write)` (43_index_memory.md R183). -/
def State.checkAccess (s : State) (count : Nat) (write : Bool) : Option CoreError :=
  firstBadAddress s.wp write (s.ea 0) count

/-- The `count` bytes at I. -/
def State.bytesAtI (s : State) (count : Nat) : List Byte := s.mem.bytesFrom (s.ea 0) count

/-- A checked read of `count` bytes at I: the bytes, or the first failure. -/
def State.readAtI (s : State) (count : Nat) : Except CoreError (List Byte) :=
  match s.checkAccess count false with
  | some e => .error e
  | none => .ok (s.bytesAtI count)

/-- A checked write of bytes at I, all or nothing (43_index_memory.md R183). -/
def State.writeAtI (s : State) (bytes : List Byte) : Except CoreError State :=
  match s.checkAccess bytes.length true with
  | some e => .error e
  | none => .ok { s with mem := s.mem.storeBytes (s.ea 0) bytes }

/-- The values of V0..Vx inclusive (43_index_memory.md R186). -/
def State.registersUpTo (s : State) (x : RegIdx) : List Byte := s.v.toList.take (x.val + 1)

/-- V0..Vx inclusive from `bytes`, the other registers kept (43_index_memory.md R187). -/
def State.setRegistersUpTo (s : State) (x : RegIdx) (bytes : List Byte) : State :=
  { s with v := Vector.ofFn (fun r : Fin 16 => if r ≤ x then bytes.getD r.val 0 else s.v[r]) }

/-- I after Fx55 and Fx65 (43_index_memory.md R188). -/
def State.stepIndex (s : State) (x : RegIdx) : State :=
  if s.params.loadStoreIncrementsI then s.setI (s.i + BitVec.ofNat 16 (x.val + 1)) else s

/-- The hundreds, tens and units digits of a byte (43_index_memory.md R184). -/
def bcdDigits (b : Byte) : List Byte := [b / 100, b / 10 % 10, b % 10]

end Sys2Proof.Machine
end

