-- ==== Sys2Proof/Machine/Flags.lean ====
section
/-! DEFINITION. The flag computations of VF (10_state.md R22, 42_alu.md R163) and the orders in which result and flag are written (42_alu.md R165). -/

namespace Sys2Proof.Machine

/-- A flag value in VF: 1 or 0. -/
def flagByte (b : Bool) : Byte := if b then 1 else 0

/-- The carry of AddReg: the exact sum exceeds 255 (R157). -/
def carryFlag (a b : Byte) : Byte := flagByte (255 < a.toNat + b.toNat)

/-- "No borrow": minuend >= subtrahend (R158, R160). -/
def noBorrowFlag (minuend subtrahend : Byte) : Byte := flagByte (subtrahend.toNat ≤ minuend.toNat)

/-- The bit a right shift by one moves out: `a & 1` (R159). -/
def lowBitFlag (a : Byte) : Byte := a &&& 1

/-- The bit a left shift by one moves out: `(a & 0x80) >> 7` (R161). -/
def highBitFlag (a : Byte) : Byte := (a &&& 0x80) >>> 7

/-- AddReg, SubReg and SubnReg write V[x] first and VF last, under both values of VF_DEST_POLICY (R165). -/
def State.setResultThenFlag (s : State) (x : RegIdx) (result flag : Byte) : State :=
  (s.setV x result).setV VF flag

/-- ShrReg and ShlReg (R159, R161, R165). Sequential: the flag first, then the result from V[x] as it then stands.
FlagLast: both from V[x] at the start, the result first and the flag last. -/
def State.setShift (s : State) (x : RegIdx) (flag shift : Byte → Byte) : State :=
  match s.params.vfDestPolicy with
  | .sequential =>
    let t := s.setV VF (flag (s.getV x))
    t.setV x (shift (t.getV x))
  | .flagLast => s.setResultThenFlag x (shift (s.getV x)) (flag (s.getV x))

end Sys2Proof.Machine
end

