-- ==== Sys2Proof/Machine/Alu.lean ====
section
/-! DEFINITION. Register arithmetic and logic (42_alu.md). No meaning here changes PC, raises an error or touches Mem, FB, I, SP, the stack or the timers (R150). -/

namespace Sys2Proof.Machine

/-- LoadImm (R151). -/
def execLoadImm (x : RegIdx) (kk : Byte) (s : State) : Result := .next (s.setV x kk)

/-- AddImm (R152): wraps, no flag. -/
def execAddImm (x : RegIdx) (kk : Byte) (s : State) : Result := .next (s.setV x (s.getV x + kk))

/-- LoadReg (R153). -/
def execLoadReg (x y : RegIdx) (s : State) : Result := .next (s.setV x (s.getV y))

/-- Or (R154). -/
def execOrReg (x y : RegIdx) (s : State) : Result := .next (s.setV x (s.getV x ||| s.getV y))

/-- And (R155). -/
def execAndReg (x y : RegIdx) (s : State) : Result := .next (s.setV x (s.getV x &&& s.getV y))

/-- Xor (R156). -/
def execXorReg (x y : RegIdx) (s : State) : Result := .next (s.setV x (s.getV x ^^^ s.getV y))

/-- AddReg (R157). -/
def execAddReg (x y : RegIdx) (s : State) : Result :=
  .next (s.setResultThenFlag x (s.getV x + s.getV y) (carryFlag (s.getV x) (s.getV y)))

/-- SubReg (R158). -/
def execSubReg (x y : RegIdx) (s : State) : Result :=
  .next (s.setResultThenFlag x (s.getV x - s.getV y) (noBorrowFlag (s.getV x) (s.getV y)))

/-- SubnReg (R160). -/
def execSubnReg (x y : RegIdx) (s : State) : Result :=
  .next (s.setResultThenFlag x (s.getV y - s.getV x) (noBorrowFlag (s.getV y) (s.getV x)))

/-- ShrReg (R159): the source is Vx, y is ignored. -/
def execShrReg (x _y : RegIdx) (s : State) : Result := .next (s.setShift x lowBitFlag (· >>> 1))

/-- ShlReg (R161): the source is Vx, y is ignored. -/
def execShlReg (x _y : RegIdx) (s : State) : Result := .next (s.setShift x highBitFlag (· <<< 1))

/-- Random (R162): one draw, masked. -/
def execRandom (x : RegIdx) (kk : Byte) (s : State) : Result :=
  .next (s.randomByte.2.setV x (s.randomByte.1 &&& kk))

end Sys2Proof.Machine
end

