-- ==== Sys2Proof/Machine/ControlFlow.lean ====
section
/-! DEFINITION. Control transfer (41_control_flow.md). Every meaning runs with PC = fa + 2 (40_cycle.md R114). -/

namespace Sys2Proof.Machine

/-- Return (R130). -/
def execRet (s : State) : Result := s.complete s.pop

/-- Call (R131): pushes the advanced PC. -/
def execCall (nnn : Addr12) (s : State) : Result :=
  s.complete (s.push.map (·.jumpTo (zextAddr nnn)))

/-- Jump (R132). -/
def execJump (nnn : Addr12) (s : State) : Result := .next (s.jumpTo (zextAddr nnn))

/-- JumpWithV0 (R133): always V0, not reduced to 12 bits. -/
def execJumpWithV0 (nnn : Addr12) (s : State) : Result :=
  .next (s.jumpTo (zextAddr nnn + zextByte (s.getV 0)))

/-- A conditional skip (R138). -/
def State.skipIf (s : State) (c : Bool) : State := if c then s.skip else s

/-- SkipEqualImm (R134). -/
def execSkipEqualImm (x : RegIdx) (kk : Byte) (s : State) : Result := .next (s.skipIf (s.getV x == kk))

/-- SkipNotEqualImm (R135). -/
def execSkipNotEqualImm (x : RegIdx) (kk : Byte) (s : State) : Result := .next (s.skipIf (s.getV x != kk))

/-- SkipEqualReg (R136). -/
def execSkipEqualReg (x y : RegIdx) (s : State) : Result := .next (s.skipIf (s.getV x == s.getV y))

/-- SkipNotEqualReg (R137). -/
def execSkipNotEqualReg (x y : RegIdx) (s : State) : Result := .next (s.skipIf (s.getV x != s.getV y))

end Sys2Proof.Machine
end

