-- ==== Sys2Proof/Machine/Display.lean ====
section
/-! DEFINITION. The display (44_display.md): the sprite engine, the host's views, Clear and Draw. -/

namespace Sys2Proof.Machine

/-- XOR one framebuffer cell with true. The collision result becomes true when the cell goes from on to off (R203). -/
def plot (acc : FrameBuffer × Bool) (sx : Fin 64) (sy : Fin 32) : FrameBuffer × Bool :=
  (acc.1.set sx sy (!acc.1.get sx sy), acc.2 || acc.1.get sx sy)

/-- The inner loop of R203 over b = 0..7: bit 7 of the row byte is the leftmost pixel, columns wrap modulo 64. -/
def drawRow (x : Byte) (sy : Fin 32) (row : Byte) (acc : FrameBuffer × Bool) : FrameBuffer × Bool :=
  (List.range 8).foldl (fun acc b => if row.getLsbD (7 - b) then plot acc (Fin.ofNat 64 (x.toNat + b)) sy else acc) acc

/-- The outer loop of R203 from row r on: rows wrap modulo 32. -/
def drawRows (x y : Byte) (r : Nat) : List Byte → FrameBuffer × Bool → FrameBuffer × Bool
  | [], acc => acc
  | row :: rest, acc => drawRows x y (r + 1) rest (drawRow x (Fin.ofNat 32 (y.toNat + r)) row acc)

/-- `DrawSprite(x, y, rows)` (R203): both error checks come before any cell changes. -/
def drawSprite (fb : FrameBuffer) (x y : Byte) (rows : List Byte) : Except CoreError (FrameBuffer × Bool) :=
  if rows.length = 0 then .error .emptySpriteData
  else if rows.length > maxSpriteRows then .error (.spriteTooTall rows.length)
  else .ok (drawRows x y 0 rows (fb, false))

/-- Both coordinates inside the framebuffer (R206). -/
def inDisplay (x y : Int) : Bool := 0 ≤ x && x < 64 && 0 ≤ y && y < 32

/-- `getPixel` (R206): false out of range. -/
def FrameBuffer.getPixel (fb : FrameBuffer) (x y : Int) : Bool :=
  if inDisplay x y then fb.get (Fin.ofNat 64 x.toNat) (Fin.ofNat 32 y.toNat) else false

/-- `setPixel` (R207): a silent no-op out of range. -/
def FrameBuffer.setPixel (fb : FrameBuffer) (x y : Int) (b : Bool) : FrameBuffer :=
  if inDisplay x y then fb.set (Fin.ofNat 64 x.toNat) (Fin.ofNat 32 y.toNat) b else fb

/-- `pixelsOn` of `stats()` (R208): the number of true cells, by a full scan. -/
def FrameBuffer.pixelsOn (fb : FrameBuffer) : Nat := (fb.rows.toList.map (fun row => row.toList.count true)).sum

/-- Clear (R202). -/
def execClear (s : State) : Result := .next { s with fb := s.fb.clear }

/-- Draw (R205): coordinates read before VF is written, memory checked before the sprite engine's own check. -/
def execDraw (x y : RegIdx) (n : Nibble) (s : State) : Result :=
  s.complete (do
    let rows ← s.readAtI n.toNat
    let drawn ← drawSprite s.fb (s.getV x) (s.getV y) rows
    return { s with fb := drawn.1 }.setV VF (flagByte drawn.2))

end Sys2Proof.Machine
end

