-- ==== Sys2Proof/Machine/IndexMemory.lean ====
section
/-! DEFINITION. The index register and the memory instructions (43_index_memory.md). Every check comes before any write (R183). -/

namespace Sys2Proof.Machine

/-- SetIndex (R180). -/
def execSetIndex (nnn : Addr12) (s : State) : Result := .next (s.setI (zextAddr nnn))

/-- AddIndex (R181): modulo 65536, no flag. -/
def execAddIndex (x : RegIdx) (s : State) : Result := .next (s.setI (s.i + zextByte (s.getV x)))

/-- LoadFont (R182): the whole of Vx is the digit, not masked. -/
def execLoadFont (x : RegIdx) (s : State) : Result :=
  s.complete ((fontGlyphAddress (s.getV x).toNat).map s.setI)

/-- StoreBcd (R184). -/
def execStoreBcd (x : RegIdx) (s : State) : Result := s.complete (s.writeAtI (bcdDigits (s.getV x)))

/-- StoreRegisters (R186, R188). -/
def execStoreRegisters (x : RegIdx) (s : State) : Result :=
  s.complete ((s.writeAtI (s.registersUpTo x)).map (·.stepIndex x))

/-- LoadRegisters (R187, R188). -/
def execLoadRegisters (x : RegIdx) (s : State) : Result :=
  s.complete ((s.readAtI (x.val + 1)).map (fun bytes => (s.setRegistersUpTo x bytes).stepIndex x))

end Sys2Proof.Machine
end

