-- ==== Sys2Proof/Machine/InputTimers.lean ====
section
/-! DEFINITION. The keypad and timer instructions (45_input_timers.md). A cycle asks the Input at most one question. -/

namespace Sys2Proof.Machine

/-- SkipKeyPressed (R220). -/
def execSkipKeyPressed (x : RegIdx) (s : State) : Result :=
  .next ((s.isPressed (s.keyOperand x)).2.skipIf (s.isPressed (s.keyOperand x)).1)

/-- SkipKeyNotPressed (R221). -/
def execSkipKeyNotPressed (x : RegIdx) (s : State) : Result :=
  .next ((s.isPressed (s.keyOperand x)).2.skipIf (!(s.isPressed (s.keyOperand x)).1))

/-- WaitKey (R222): PC stays advanced in both branches. -/
def execWaitKey (x : RegIdx) (s : State) : Result :=
  .next (match s.takeKey.1 with
    | some k => s.takeKey.2.setV x (keyByte k)
    | none => { s.takeKey.2 with execState := .waitingForKey x })

/-- The waiting cycle (40_cycle.md R118): polls once, never fails, leaves PC alone. -/
def State.pollKey (s : State) (r : RegIdx) : State :=
  match s.takeKey.1 with
  | some k => { s.takeKey.2.setV r (keyByte k) with execState := .running }
  | none => s.takeKey.2

/-- LoadDelay (R223). -/
def execLoadDelay (x : RegIdx) (s : State) : Result := .next (s.setV x s.dt)

/-- SetDelay (R224). -/
def execSetDelay (x : RegIdx) (s : State) : Result := .next { s with dt := s.getV x }

/-- SetSound (R225). -/
def execSetSound (x : RegIdx) (s : State) : Result := .next { s with st := s.getV x }

end Sys2Proof.Machine
end

