-- ==== Sys2Proof/Machine/Cycle.lean ====
section
/-! DEFINITION. The fetch-decode-execute cycle (40_cycle.md R120). -/

namespace Sys2Proof.Machine

/-- Decode and dispatch of the opcode at PC, with PC already advanced (R112 to R114). A decode error fails the cycle (R113, R116). -/
def State.runFetched (s : State) : Result :=
  match decode s.params.zeroFamilyMatch s.fetchOpcode with
  | .ok i => exec i s.advance
  | .error (.unknownInstruction op) => .next (s.advance.fail (.unknownInstruction op))

/-- `executeCycle()` (R120). A Faulted machine has no cycle step (R121). -/
def cycle (s : State) : Result :=
  match s.fault with
  | some e => .fault (.machineFaulted e)
  | none =>
    match s.execState with
    | .waitingForKey r => .next (s.pollKey r)
    | .running => if s.fetchable then s.runFetched else .next s.failFetch

/-- The free ticks that follow a cycle no schedule asked for (60_exceptions.md R251). -/
def withFreeTicks : Result → Result
  | .next t => .next t.freeTicks
  | .fault r => .fault r
  | .refused r => .refused r

/-- An instruction's opcode placed where the next step fetches it, and everything set that this takes: PC in memory,
Running, no Fault, and a cycle as the next step. -/
def State.placeNext (s : State) (op : Word) : State :=
  let pc : Word := if s.fetchable then s.pc else 0x200
  { s with
    pc := pc
    mem := s.mem.storeBytes pc.toNat [highByte op, lowByte op]
    execState := .running
    fault := none
    schedule := match s.schedule with
      | [] => []
      | .executeCycle :: rest => .executeCycle :: rest
      | calls => .executeCycle :: calls }

end Sys2Proof.Machine
end

