-- ==== Sys2Proof/Machine/HostPort.lean ====
section
/-! DEFINITION. The host's calls on the core's ports (60_exceptions.md R260, R268) and on the memory controller (20_memory.md R76), but executeCycle, which is Cycle.lean. They happen between cycles (40_cycle.md R122) and a failing one sets no Fault record (10_state.md R38). -/

namespace Sys2Proof.Machine

/-- Records what a port gives back. -/
def State.answer (s : State) (a : HostAnswer) : State := { s with hostAnswer := some a }

/-- A port that writes memory: the new memory and Unit, or the error with memory unchanged. -/
def State.serveWrite (s : State) : Except CoreError Memory → State
  | .ok m => { s with mem := m }.answer .done
  | .error e => s.answer (.error e)

/-- A port that reads: the value, or the error. -/
def State.serveRead {α : Type} (s : State) (wrap : α → HostAnswer) : Except CoreError α → State
  | .ok a => s.answer (wrap a)
  | .error e => s.answer (.error e)

/-- One host call. `executeCycle` is not served here and leaves the state alone. -/
def State.serve (s : State) : HostCall → State
  | .executeCycle => s
  | .updateTimers => s.updateTimers.answer .done
  | .reset => s.machineReset.answer .done
  | .loadRom bytes => s.serveWrite (s.mem.loadRom bytes)
  | .readByte a => s.serveRead .byte (s.mem.readByte a)
  | .writeByte a b => s.serveWrite (s.mem.writeByte s.wp a b)
  | .readWord a => s.serveRead .word (s.mem.readWord a)
  | .writeWord a w => s.serveWrite (s.mem.writeWord s.wp a w)
  | .memoryDump => s.answer (.bytes (s.mem.bytesFrom 0 memSize))
  | .memoryReset => { s with mem := s.mem.reset }.answer .done
  | .fontGlyphAddress d => s.serveRead .word (fontGlyphAddress d)
  | .getPixel x y => s.answer (.bool (s.fb.getPixel x y))
  | .setPixel x y b => { s with fb := s.fb.setPixel x y b }.answer .done
  | .stats => s.answer (.stats 64 32 s.fb.pixelsOn 2048)
  | .shouldBeep => s.answer (.bool s.shouldBeep)
  | .decodeOpcode op =>
    match decode s.params.zeroFamilyMatch op with
    | .ok i => s.answer (.decoded i)
    | .error (.unknownInstruction op) => s.answer (.error (.unknownInstruction op))

end Sys2Proof.Machine
end

