-- ==== Sys2Proof/Machine/Step.lean ====
section
/-! DEFINITION. One step of the block (40_cycle.md R122): the next host call of the driver's schedule, or, with no schedule, one cycle followed by a free number of timer ticks. -/

namespace Sys2Proof.Machine

/-- The driver decides what comes next (R122): the oldest call of the schedule. Where the schedule is empty the driver
goes on with cycles, and ticks come as they may (60_exceptions.md R251). Log entries 6 and 7. -/
def step (s : State) : Host.Outcome State Fault Refusal :=
  match s.schedule with
  | [] => withFreeTicks (cycle s)
  | .executeCycle :: rest => cycle { s with schedule := rest }
  | call :: rest => .next ({ s with schedule := rest }.serve call)

/-- The state `s` with the table word `w` placed so that the next step fetches and runs it. Log entry 15. -/
def State.withFetchWord (s : State) (nbits w : Nat) : State := s.placeNext (tableWord nbits w)

end Sys2Proof.Machine
end

