-- ==== Sys2Proof/Safety.lean ====
section
/-! DEFINITION. What claims are stated in: a safe run, the parts of a state and what a change leaves alone, who writes what (10_state.md R43), the bound on PC (R28), and agreement of two states. -/

namespace Sys2Proof.Machine

/-! ## Safe runs -/

/-- A state in which no cycle has failed since reset (10_state.md R38). A Faulted state is never a successful end of a
run (60_exceptions.md R246), although the failing step itself answers a next state. -/
def State.Healthy (s : State) : Prop := s.fault = none

/-- A step that neither stops nor leaves the machine Faulted. -/
def SafeStep (s : State) : Prop := ∃ t, step s = .next t ∧ t.Healthy

/-! ## Frames -/

/-- The parts of a state: each register, stack slot, memory byte and pixel on its own, and every other field. -/
inductive Field where
  | v (r : RegIdx)
  | i
  | pc
  | sp
  | stack (k : Fin 16)
  | dt
  | st
  | execState
  | mem (address : Nat)
  | font
  | pixel (x : Fin 64) (y : Fin 32)
  | wp
  | fault
  | params
  | oracle
  | schedule
  | hostAnswer
deriving DecidableEq, Repr

/-- A part reads the same in both states. Memory and the framebuffer are compared through the model's own reads. -/
def Unchanged (s t : State) : Field → Prop
  | .v r => t.getV r = s.getV r
  | .i => t.i = s.i
  | .pc => t.pc = s.pc
  | .sp => t.sp = s.sp
  | .stack k => t.stack[k] = s.stack[k]
  | .dt => t.dt = s.dt
  | .st => t.st = s.st
  | .execState => t.execState = s.execState
  | .mem a => t.mem.get a = s.mem.get a
  | .font => t.mem.font = s.mem.font
  | .pixel x y => t.fb.get x y = s.fb.get x y
  | .wp => t.wp = s.wp
  | .fault => t.fault = s.fault
  | .params => t.params = s.params
  | .oracle => t.oracle = s.oracle
  | .schedule => t.schedule = s.schedule
  | .hostAnswer => t.hostAnswer = s.hostAnswer

/-- From `s` to `t` every part outside `touched` is unchanged. -/
def OnlyChanges (touched : Field → Prop) (s t : State) : Prop :=
  ∀ f, ¬ touched f → Unchanged s t f

/-- The instruction `i`, executed with PC = fa + 2, fails with the cause `e`: the Fault record gets the opcode at fa, the
address fa and the cause (40_cycle.md R116), and nothing else changes (R117). -/
def FailsWith (i : Instr) (s : State) (e : CoreError) : Prop :=
  ∃ t, exec i s = .next t ∧
    t.fault = some (.instructionExecutionFailed (s.mem.wordAt (s.pc - 2).toNat) (s.pc - 2) e) ∧
    OnlyChanges (fun f => f = .fault) s t

/-- The opcode `op` is an encoding of `i`, whatever ZERO_FAMILY_MATCH is. -/
def Encodes (op : Word) (i : Instr) : Prop := ∀ z, decode z op = .ok i

/-- What each instruction writes, transcribed from the table of 10_state.md R43, on top of the fetch's advance. The
environment's answers are added where the instruction asks for one (R162, R220 to R222). -/
def writeSet (i : Instr) (s : State) : Field → Prop :=
  match i with
  | .clear => fun f => ∃ x y, f = .pixel x y
  | .ret => fun f => f = .pc ∨ f = .sp
  | .jump _ => fun f => f = .pc
  | .call _ => fun f => f = .pc ∨ f = .sp ∨ ∃ k : Fin 16, k.val = s.sp.val ∧ f = .stack k
  | .skipEqualImm _ _ => fun f => f = .pc
  | .skipNotEqualImm _ _ => fun f => f = .pc
  | .skipEqualReg _ _ => fun f => f = .pc
  | .skipNotEqualReg _ _ => fun f => f = .pc
  | .loadImm x _ => fun f => f = .v x
  | .addImm x _ => fun f => f = .v x
  | .loadReg x _ => fun f => f = .v x
  | .orReg x _ => fun f => f = .v x
  | .andReg x _ => fun f => f = .v x
  | .xorReg x _ => fun f => f = .v x
  | .random x _ => fun f => f = .v x ∨ f = .oracle
  | .loadDelay x => fun f => f = .v x
  | .addReg x _ => fun f => f = .v x ∨ f = .v VF
  | .subReg x _ => fun f => f = .v x ∨ f = .v VF
  | .subnReg x _ => fun f => f = .v x ∨ f = .v VF
  | .shrReg x _ => fun f => f = .v x ∨ f = .v VF
  | .shlReg x _ => fun f => f = .v x ∨ f = .v VF
  | .setIndex _ => fun f => f = .i
  | .addIndex _ => fun f => f = .i
  | .loadFont _ => fun f => f = .i
  | .jumpWithV0 _ => fun f => f = .pc
  | .draw _ _ _ => fun f => f = .v VF ∨ ∃ x y, f = .pixel x y
  | .skipKeyPressed _ => fun f => f = .pc ∨ f = .oracle
  | .skipKeyNotPressed _ => fun f => f = .pc ∨ f = .oracle
  | .waitKey x => fun f => f = .v x ∨ f = .execState ∨ f = .oracle
  | .setDelay _ => fun f => f = .dt
  | .setSound _ => fun f => f = .st
  | .storeBcd _ => fun f => ∃ k < 3, f = .mem (s.ea k)
  | .storeRegisters x => fun f => (∃ k ≤ x.val, f = .mem (s.ea k)) ∨ (s.params.loadStoreIncrementsI = true ∧ f = .i)
  | .loadRegisters x => fun f => (∃ k ≤ x, f = .v k) ∨ (s.params.loadStoreIncrementsI = true ∧ f = .i)

/-! ## Invariants -/

/-- 10_state.md R28: PC never exceeds 0x10FE, and every stack entry in use is at most 0x1000. -/
def State.PcBounded (s : State) : Prop :=
  s.pc.toNat ≤ 0x10FE ∧ ∀ k : Fin 16, k.val < s.sp.val → s.stack[k].toNat ≤ 0x1000

/-- The values of the table in 10_state.md R41 after construction and after reset, but WP. -/
def State.HasInitialValues (s : State) : Prop :=
  (∀ r, s.getV r = 0) ∧ s.i = 0 ∧ s.pc = 0x200 ∧ s.sp.val = 0 ∧ (∀ k : Fin 16, s.stack[k] = 0) ∧ s.dt = 0 ∧ s.st = 0 ∧
    s.execState = .running ∧ s.fault = none ∧ (∀ x y, s.fb.get x y = false) ∧
    (∀ k (h : k < 80), s.mem.get (0x050 + k) = s.mem.font[k]) ∧ (∀ a, ¬ (0x050 ≤ a ∧ a < 0x0A0) → s.mem.get a = 0)

/-! ## Sprites -/

/-- A sprite of `n` rows drawn at (x, y) has a set bit for the framebuffer cell (sx, sy): some row r and column b with
`(y + r) mod 32 = sy`, `(x + b) mod 64 = sx` and bit 7 - b of the row set (44_display.md R203). -/
def SpriteCovers (x y : Byte) (n : Nat) (row : Nat → Byte) (sx : Fin 64) (sy : Fin 32) : Prop :=
  ∃ r b : Nat, r < n ∧ b < 8 ∧ (y.toNat + r) % 32 = sy.val ∧ (x.toNat + b) % 64 = sx.val ∧
    (row r).getLsbD (7 - b) = true

/-- From the framebuffer `fb` to `fb'` exactly the covered cells are inverted. -/
def InvertsCovered (covers : Fin 64 → Fin 32 → Prop) (fb fb' : FrameBuffer) : Prop :=
  ∀ sx sy, (covers sx sy → fb'.get sx sy = !fb.get sx sy) ∧ (¬ covers sx sy → fb'.get sx sy = fb.get sx sy)

/-! ## Agreement -/

/-- Two states that differ at most in stack slots at SP and above (10_state.md R30). -/
def AgreeBelowSp (s t : State) : Prop :=
  t = { s with stack := t.stack } ∧ ∀ k : Fin 16, k.val < s.sp.val → t.stack[k] = s.stack[k]

/-- Two outcomes are of the same kind and their states are related. -/
def SameOutcome (related : State → State → Prop) : Result → Result → Prop
  | .next s, .next t => related s t
  | .fault e, .fault f => e = f
  | .refused e, .refused f => e = f
  | _, _ => False

end Sys2Proof.Machine
end

