-- ==== Sys2Proof/Certificates/Slice0/Obligations.lean ====
section
/-! DEFINITION. The statements for the provers, each from the numbered rules of spec/. An instruction's meaning runs with PC = fa + 2 (40_cycle.md R114), so in a statement about `exec` the state s already has the advanced PC. Where a rule carries the spec's own mark [decision: Dn] or [derived], the docstring names it: such a clause is the spec's inference. The encodings that R89 to R93 mark as general knowledge are taken as the rules they are (log entry 18). -/

open Sys2Proof Sys2Proof.Machine

/-! ## Encoding (30_encoding.md) -/

/-- Decoding the encoding of any instruction gives it back, every operand at every value, under both values of
ZERO_FAMILY_MATCH (R84, R95). That `encode` writes 0 in bits 11:8 of 00E0 and 00EE is the model's choice (log entry 12). -/
def Obligations.DecodeOfEncodeGivesInstruction : Prop :=
  ∀ i, Encodes (encode i) i

/-- The two-level dispatch of R86 accepts exactly the words that select a row of the map of R95, and answers
UnknownInstruction with the opcode for every other word (R87, R97). The map's encodings are the spec's decision D4. -/
def Obligations.DecoderAcceptsExactlyTheOpcodeMap : Prop :=
  ∀ z op, ((∃ i, decode z op = .ok i) ↔ ∃ r ∈ opcodeMap z, op &&& r.mask = r.value) ∧
    (decode z op = .error (.unknownInstruction op) ↔ ¬ ∃ r ∈ opcodeMap z, op &&& r.mask = r.value)

/-- "No opcode matches two rows of rule R95" (R94, marked derived): of any two places of the map, a row listed twice
included, no word selects both. -/
def Obligations.NoOpcodeMatchesTwoRows : Prop :=
  ∀ z, (opcodeMap z).Pairwise (fun r r' => ¬ ∃ op : Word, op &&& r.mask = r.value ∧ op &&& r'.mask = r'.value)

/-- Encoding what was decoded gives the opcode back; only for Clear and Return under LowByte may bits 11:8 differ (R88).
That they come back 0 is the model's choice (log entry 12). -/
def Obligations.EncodeOfDecodeGivesOpcode : Prop :=
  ∀ z op i, decode z op = .ok i →
    encode i = op ∨ (z = .lowByte ∧ (i = .clear ∨ i = .ret) ∧ encode i = op &&& 0xF0FF)

/-- The encodings the source gives with their meaning (R101). -/
def Obligations.SourceExampleWordsDecode : Prop :=
  Encodes 0x00E0 .clear ∧ Encodes 0x6342 (.loadImm 3 0x42) ∧ Encodes 0xA300 (.setIndex 0x300) ∧
    Encodes 0x2300 (.call 0x300) ∧ Encodes 0x00EE .ret

/-- Family 0x0 (R88): the low byte alone decides under LowByte, the whole word under FullWord. No SYS
is the spec's decision D2, the parameter its decision D3. -/
def Obligations.ZeroFamilyFollowsItsParameter : Prop :=
  ∀ (b : BitVec 4) (kk : Byte), let op : Word := (0x0 : BitVec 4) ++ b ++ kk
    (decode .lowByte op = if kk = 0xE0 then .ok .clear else if kk = 0xEE then .ok .ret
      else .error (.unknownInstruction op)) ∧
    (decode .fullWord op = if op = 0x00E0 then .ok .clear else if op = 0x00EE then .ok .ret
      else .error (.unknownInstruction op))

/-! ## Control transfer (41_control_flow.md) -/

/-- Return (R130): pops the newest entry into PC, or fails with StackUnderflow when the stack is empty.
`FailsWith` is R116 and R117 with the spec's decisions D10 and D11 and log entry 10. -/
def Obligations.ReturnPopsOrUnderflows : Prop :=
  Encodes 0x00EE .ret ∧ ∀ s,
    (s.sp.val = 0 → FailsWith .ret s .stackUnderflow) ∧
    (∀ k : Fin 16, k.val + 1 = s.sp.val → ∃ t, exec .ret s = .next t ∧ t.sp.val = k.val ∧ t.pc = s.stack[k] ∧
      OnlyChanges (fun f => f = .pc ∨ f = .sp) s t)

/-- Call (R131): pushes the advanced PC and jumps, or fails with StackOverflow when 16 entries are in use.
`FailsWith` is R116 and R117 with the spec's decisions D10 and D11 and log entry 10. -/
def Obligations.CallPushesOrOverflows : Prop :=
  ∀ nnn, Encodes (encodeAddr 0x2 nnn) (.call nnn) ∧ ∀ s,
    (s.sp.val = 16 → FailsWith (.call nnn) s .stackOverflow) ∧
    (∀ k : Fin 16, k.val = s.sp.val → ∃ t, exec (.call nnn) s = .next t ∧ t.stack[k] = s.pc ∧
      t.sp.val = s.sp.val + 1 ∧ t.pc.toNat = nnn.toNat ∧
      OnlyChanges (fun f => f = .pc ∨ f = .sp ∨ f = .stack k) s t)

/-- A Return right after a Call resumes at the word after the Call, with SP as before (R130, R131). -/
def Obligations.CallThenReturnResumesAfterCall : Prop :=
  ∀ nnn s, ∀ k : Fin 16, k.val = s.sp.val → ∃ t u, exec (.call nnn) s = .next t ∧ exec .ret t.advance = .next u ∧
    u.pc = s.pc ∧ OnlyChanges (fun f => f = .stack k) s u

/-- Jump and JumpWithV0 (R132, R133). The sum of nnn and V0 is exact: neither wrapped nor reduced to 12 bits, no carry anywhere. -/
def Obligations.JumpsSetPcExactly : Prop :=
  ∀ nnn, Encodes (encodeAddr 0x1 nnn) (.jump nnn) ∧ Encodes (encodeAddr 0xB nnn) (.jumpWithV0 nnn) ∧ ∀ s,
    (∃ t, exec (.jump nnn) s = .next t ∧ t.pc.toNat = nnn.toNat ∧ OnlyChanges (fun f => f = .pc) s t) ∧
    (∃ t, exec (.jumpWithV0 nnn) s = .next t ∧ t.pc.toNat = nnn.toNat + (s.getV 0).toNat ∧
      OnlyChanges (fun f => f = .pc) s t)

/-- SkipEqualImm and SkipNotEqualImm (R134, R135): 2 more on PC, or nothing. -/
def Obligations.ImmediateSkipsAddTwoToPc : Prop :=
  ∀ x kk, Encodes (encodeXkk 0x3 x kk) (.skipEqualImm x kk) ∧ Encodes (encodeXkk 0x4 x kk) (.skipNotEqualImm x kk) ∧ ∀ s,
    (∃ t, exec (.skipEqualImm x kk) s = .next t ∧ t.pc = (if s.getV x = kk then s.pc + 2 else s.pc) ∧
      OnlyChanges (fun f => f = .pc) s t) ∧
    (∃ t, exec (.skipNotEqualImm x kk) s = .next t ∧ t.pc = (if s.getV x ≠ kk then s.pc + 2 else s.pc) ∧
      OnlyChanges (fun f => f = .pc) s t)

/-- SkipEqualReg and SkipNotEqualReg (R136, R137), x = y included: it always skips, and never skips. -/
def Obligations.RegisterSkipsAddTwoToPc : Prop :=
  ∀ x y, Encodes (encodeXyn 0x5 x y 0x0) (.skipEqualReg x y) ∧ Encodes (encodeXyn 0x9 x y 0x0) (.skipNotEqualReg x y) ∧
    (∀ n, n ≠ 0x0 → ∀ z, decode z (encodeXyn 0x5 x y n) = .error (.unknownInstruction (encodeXyn 0x5 x y n)) ∧
      decode z (encodeXyn 0x9 x y n) = .error (.unknownInstruction (encodeXyn 0x9 x y n))) ∧ ∀ s,
    (∃ t, exec (.skipEqualReg x y) s = .next t ∧ t.pc = (if s.getV x = s.getV y then s.pc + 2 else s.pc) ∧
      OnlyChanges (fun f => f = .pc) s t) ∧
    (∃ t, exec (.skipNotEqualReg x y) s = .next t ∧ t.pc = (if s.getV x ≠ s.getV y then s.pc + 2 else s.pc) ∧
      OnlyChanges (fun f => f = .pc) s t)

/-! ## Arithmetic and logic (42_alu.md) -/

/-- LoadImm and LoadReg (R151, R153), x = 15 included: VF is then written as data. -/
def Obligations.LoadsWriteOnlyVx : Prop :=
  ∀ x, (∀ kk, Encodes (encodeXkk 0x6 x kk) (.loadImm x kk) ∧ ∀ s, ∃ t, exec (.loadImm x kk) s = .next t ∧
      t.getV x = kk ∧ OnlyChanges (fun f => f = .v x) s t) ∧
    (∀ y, Encodes (encodeXyn 0x8 x y 0x0) (.loadReg x y) ∧ ∀ s, ∃ t, exec (.loadReg x y) s = .next t ∧
      t.getV x = s.getV y ∧ OnlyChanges (fun f => f = .v x) s t)

/-- AddImm (R152): wraps modulo 256 and writes no flag. -/
def Obligations.AddImmWrapsWithoutFlag : Prop :=
  ∀ x kk, Encodes (encodeXkk 0x7 x kk) (.addImm x kk) ∧ ∀ s, ∃ t, exec (.addImm x kk) s = .next t ∧
    (t.getV x).toNat = ((s.getV x).toNat + kk.toNat) % 256 ∧ OnlyChanges (fun f => f = .v x) s t

/-- Or, And and Xor (R154, R155, R156), bit by bit, with no flag change. -/
def Obligations.BitwiseInstructionsWorkPerBit : Prop :=
  ∀ x y, Encodes (encodeXyn 0x8 x y 0x1) (.orReg x y) ∧ Encodes (encodeXyn 0x8 x y 0x2) (.andReg x y) ∧
    Encodes (encodeXyn 0x8 x y 0x3) (.xorReg x y) ∧ ∀ s,
    (∃ t, exec (.orReg x y) s = .next t ∧ OnlyChanges (fun f => f = .v x) s t ∧
      ∀ j < 8, (t.getV x).getLsbD j = ((s.getV x).getLsbD j || (s.getV y).getLsbD j)) ∧
    (∃ t, exec (.andReg x y) s = .next t ∧ OnlyChanges (fun f => f = .v x) s t ∧
      ∀ j < 8, (t.getV x).getLsbD j = ((s.getV x).getLsbD j && (s.getV y).getLsbD j)) ∧
    (∃ t, exec (.xorReg x y) s = .next t ∧ OnlyChanges (fun f => f = .v x) s t ∧
      ∀ j < 8, (t.getV x).getLsbD j = ((s.getV x).getLsbD j ^^ (s.getV y).getLsbD j))

/-- AddReg (R157): VF is the carry of the exact sum, also when x = 15 or y = 15. -/
def Obligations.AddRegSetsCarry : Prop :=
  ∀ x y, Encodes (encodeXyn 0x8 x y 0x4) (.addReg x y) ∧ ∀ s, ∃ t, exec (.addReg x y) s = .next t ∧
    (x ≠ VF → (t.getV x).toNat = ((s.getV x).toNat + (s.getV y).toNat) % 256) ∧
    t.getV VF = (if (s.getV x).toNat + (s.getV y).toNat > 255 then 1 else 0) ∧
    OnlyChanges (fun f => f = .v x ∨ f = .v VF) s t

/-- SubReg and SubnReg (R158, R160): VF is "no borrow" of the operands before the subtraction. -/
def Obligations.SubtractionsSetNoBorrow : Prop :=
  ∀ x y, Encodes (encodeXyn 0x8 x y 0x5) (.subReg x y) ∧ Encodes (encodeXyn 0x8 x y 0x7) (.subnReg x y) ∧ ∀ s,
    (∃ t, exec (.subReg x y) s = .next t ∧
      (x ≠ VF → ((t.getV x).toNat : Int) = ((s.getV x).toNat - (s.getV y).toNat : Int) % 256) ∧
      t.getV VF = (if (s.getV x).toNat ≥ (s.getV y).toNat then 1 else 0) ∧
      OnlyChanges (fun f => f = .v x ∨ f = .v VF) s t) ∧
    (∃ t, exec (.subnReg x y) s = .next t ∧
      (x ≠ VF → ((t.getV x).toNat : Int) = ((s.getV y).toNat - (s.getV x).toNat : Int) % 256) ∧
      t.getV VF = (if (s.getV y).toNat ≥ (s.getV x).toNat then 1 else 0) ∧
      OnlyChanges (fun f => f = .v x ∨ f = .v VF) s t)

/-- ShrReg (R159, R165, its decision D5): Vx shifted right by one, VF the bit shifted out, y without influence. With x = 15 Sequential
leaves 0 in VF, FlagLast the bit shifted out. -/
def Obligations.ShrRegShiftsVxRight : Prop :=
  ∀ x y, Encodes (encodeXyn 0x8 x y 0x6) (.shrReg x y) ∧ ∀ s, ∃ t, exec (.shrReg x y) s = .next t ∧
    (x ≠ VF → (t.getV x).toNat = (s.getV x).toNat / 2 ∧ (t.getV VF).toNat = (s.getV x).toNat % 2) ∧
    (x = VF → (t.getV VF).toNat = if s.params.vfDestPolicy = .sequential then 0 else (s.getV VF).toNat % 2) ∧
    OnlyChanges (fun f => f = .v x ∨ f = .v VF) s t

/-- ShlReg (R161, R165, its decision D5): Vx shifted left by one, VF the bit shifted out, y without influence. With x = 15 Sequential
leaves twice the bit shifted out in VF, FlagLast the bit itself. -/
def Obligations.ShlRegShiftsVxLeft : Prop :=
  ∀ x y, Encodes (encodeXyn 0x8 x y 0xE) (.shlReg x y) ∧ ∀ s, ∃ t, exec (.shlReg x y) s = .next t ∧
    (x ≠ VF → (t.getV x).toNat = 2 * (s.getV x).toNat % 256 ∧ (t.getV VF).toNat = (s.getV x).toNat / 128) ∧
    (x = VF → (t.getV VF).toNat =
      if s.params.vfDestPolicy = .sequential then 2 * ((s.getV VF).toNat / 128) else (s.getV VF).toNat / 128) ∧
    OnlyChanges (fun f => f = .v x ∨ f = .v VF) s t

/-- Random (R162) masks one draw. That an injected byte is used first, and else the free value of Config, is the model's
own form of the oracle of R265 (log entry 4): the statement holds for every value of either. -/
def Obligations.RandomMasksOneDraw : Prop :=
  ∀ x kk, Encodes (encodeXkk 0xC x kk) (.random x kk) ∧ ∀ s, ∃ t r, exec (.random x kk) s = .next t ∧
    t.getV x = r &&& kk ∧
    OnlyChanges (fun f => f = .v x ∨ f = .oracle) s t ∧
    (∀ b rest, s.oracle.randomBytes = b :: rest → r = b ∧ t.oracle = { s.oracle with randomBytes := rest }) ∧
    (s.oracle.randomBytes = [] →
      r = Config.randomByte s.oracle.draws ∧ t.oracle = { s.oracle with draws := s.oracle.draws + 1 })

/-! ## Index register and memory (43_index_memory.md) -/

/-- SetIndex and AddIndex (R180, R181): the zero-extended address; the sum modulo 65536, not reduced to 12 bits, VF unchanged.
The wrap at 16 bits is the spec's decision D7. -/
def Obligations.IndexWritesAreSixteenBits : Prop :=
  (∀ nnn, Encodes (encodeAddr 0xA nnn) (.setIndex nnn) ∧ ∀ s, ∃ t, exec (.setIndex nnn) s = .next t ∧
    t.i.toNat = nnn.toNat ∧ OnlyChanges (fun f => f = .i) s t) ∧
  (∀ x, Encodes (encodeXkk 0xF x 0x1E) (.addIndex x) ∧ ∀ s, ∃ t, exec (.addIndex x) s = .next t ∧
    t.i.toNat = (s.i.toNat + (s.getV x).toNat) % 65536 ∧ OnlyChanges (fun f => f = .i) s t)

/-- LoadFont (R182): the glyph's address for a digit 0..15, InvalidFontDigit for any larger value of the whole register.
`FailsWith` is R116 and R117 with the spec's decisions D10 and D11 and log entry 10. -/
def Obligations.LoadFontAddressesGlyphOrFails : Prop :=
  ∀ x, Encodes (encodeXkk 0xF x 0x29) (.loadFont x) ∧ ∀ s,
    ((s.getV x).toNat ≤ 15 → ∃ t, exec (.loadFont x) s = .next t ∧ t.i.toNat = 0x050 + 5 * (s.getV x).toNat ∧
      OnlyChanges (fun f => f = .i) s t) ∧
    ((s.getV x).toNat > 15 → FailsWith (.loadFont x) s (.invalidFontDigit (s.getV x).toNat))

/-- StoreBcd (R184): three decimal digits at I, I+1, I+2, or the lowest failing address and no byte written (its decisions D8, D9).
`FailsWith` is R116 and R117 with the spec's decisions D10 and D11 and log entry 10. -/
def Obligations.StoreBcdWritesDigitsOrFails : Prop :=
  ∀ x, Encodes (encodeXkk 0xF x 0x33) (.storeBcd x) ∧ ∀ s,
    (s.i.toNat + 2 < 4096 → ¬ (s.wp = true ∧ s.i.toNat ≤ 0x1FF) → ∃ t, exec (.storeBcd x) s = .next t ∧
      (t.mem.get s.i.toNat).toNat = (s.getV x).toNat / 100 ∧
      (t.mem.get (s.i.toNat + 1)).toNat = (s.getV x).toNat / 10 % 10 ∧
      (t.mem.get (s.i.toNat + 2)).toNat = (s.getV x).toNat % 10 ∧
      OnlyChanges (fun f => ∃ k < 3, f = .mem (s.i.toNat + k)) s t) ∧
    (s.i.toNat + 2 ≥ 4096 → FailsWith (.storeBcd x) s (.outOfBounds (max s.i.toNat 4096 : Nat))) ∧
    (s.wp = true → s.i.toNat ≤ 0x1FF → FailsWith (.storeBcd x) s (.writeProtected (s.i.toNat : Nat)))

/-- StoreRegisters (R186): V0..Vx to I..I+x, with I afterwards as LOADSTORE_INCREMENTS_I says, or the lowest failing
address and no byte written (the spec's decisions D6, D8, D9).
`FailsWith` is R116 and R117 with the spec's decisions D10 and D11 and log entry 10. -/
def Obligations.StoreRegistersWritesOrFails : Prop :=
  ∀ x, Encodes (encodeXkk 0xF x 0x55) (.storeRegisters x) ∧ ∀ s,
    (s.i.toNat + x.val < 4096 → ¬ (s.wp = true ∧ s.i.toNat ≤ 0x1FF) → ∃ t, exec (.storeRegisters x) s = .next t ∧
      (∀ k ≤ x, t.mem.get (s.i.toNat + k.val) = s.getV k) ∧
      t.i.toNat = (if s.params.loadStoreIncrementsI then (s.i.toNat + x.val + 1) % 65536 else s.i.toNat) ∧
      OnlyChanges (fun f => f = .i ∨ ∃ k ≤ x.val, f = .mem (s.i.toNat + k)) s t) ∧
    (s.i.toNat + x.val ≥ 4096 → FailsWith (.storeRegisters x) s (.outOfBounds (max s.i.toNat 4096 : Nat))) ∧
    (s.wp = true → s.i.toNat ≤ 0x1FF → FailsWith (.storeRegisters x) s (.writeProtected (s.i.toNat : Nat)))

/-- LoadRegisters (R187): V0..Vx from I..I+x whatever WP is, with I afterwards as LOADSTORE_INCREMENTS_I says, or the
lowest address out of range and no register changed (the spec's decisions D6, D8, D9).
`FailsWith` is R116 and R117 with the spec's decisions D10 and D11 and log entry 10. -/
def Obligations.LoadRegistersReadsOrFails : Prop :=
  ∀ x, Encodes (encodeXkk 0xF x 0x65) (.loadRegisters x) ∧ ∀ s,
    (s.i.toNat + x.val < 4096 → ∃ t, exec (.loadRegisters x) s = .next t ∧
      (∀ k ≤ x, t.getV k = s.mem.get (s.i.toNat + k.val)) ∧
      t.i.toNat = (if s.params.loadStoreIncrementsI then (s.i.toNat + x.val + 1) % 65536 else s.i.toNat) ∧
      OnlyChanges (fun f => f = .i ∨ ∃ k ≤ x, f = .v k) s t) ∧
    (s.i.toNat + x.val ≥ 4096 → FailsWith (.loadRegisters x) s (.outOfBounds (max s.i.toNat 4096 : Nat)))

/-- With I unchanged by Fx55 (the default, the spec's decision D6), loading right back restores V0..Vx, whatever the registers held meanwhile. -/
def Obligations.LoadAfterStoreRestoresRegisters : Prop :=
  ∀ x s t, s.params.loadStoreIncrementsI = false → exec (.storeRegisters x) s = .next t → t.fault = s.fault →
    s.i.toNat + x.val < 4096 → ¬ (s.wp = true ∧ s.i.toNat ≤ 0x1FF) →
    ∀ v, ∃ u, exec (.loadRegisters x) { t with v := v } = .next u ∧ ∀ k ≤ x, u.getV k = s.getV k

/-! ## Display (44_display.md) -/

/-- Clear (R202, R201). -/
def Obligations.ClearTurnsEveryCellOff : Prop :=
  Encodes 0x00E0 .clear ∧ ∀ s, ∃ t, exec .clear s = .next t ∧ (∀ x y, t.fb.get x y = false) ∧
    OnlyChanges (fun f => ∃ x y, f = .pixel x y) s t

/-- Draw with at least one row inside Mem (R205): exactly the cells the sprite covers are inverted, the sprite wrapping at
both edges, and VF says whether one of them was on. The loops of R203 are refined to this order-free form (R204, marked derived). -/
def Obligations.DrawInvertsCoveredCells : Prop :=
  ∀ x y n, Encodes (encodeXyn 0xD x y n) (.draw x y n) ∧ ∀ s, 0 < n.toNat → s.i.toNat + n.toNat ≤ 4096 →
    let covers := SpriteCovers (s.getV x) (s.getV y) n.toNat (fun r => s.mem.get (s.i.toNat + r))
    ∃ t, exec (.draw x y n) s = .next t ∧ InvertsCovered covers s.fb t.fb ∧
      ((∃ sx sy, covers sx sy ∧ s.fb.get sx sy = true) → t.getV VF = 1) ∧
      ((¬ ∃ sx sy, covers sx sy ∧ s.fb.get sx sy = true) → t.getV VF = 0) ∧
      OnlyChanges (fun f => f = .v VF ∨ ∃ sx sy, f = .pixel sx sy) s t

/-- Draw's errors (R205): EmptySpriteData when n = 0 even with I out of range, else OutOfBounds with the lowest failing
address; the framebuffer and VF are then unchanged (R183, the spec's decision D9).
`FailsWith` is R116 and R117 with the spec's decisions D10 and D11 and log entry 10. -/
def Obligations.DrawFailsOnEmptyOrOutOfBounds : Prop :=
  ∀ x y s, FailsWith (.draw x y 0) s .emptySpriteData ∧
    ∀ n, 0 < n.toNat → s.i.toNat + n.toNat > 4096 → FailsWith (.draw x y n) s (.outOfBounds (max s.i.toNat 4096 : Nat))

/-- Drawing the same sprite twice at the same place restores the framebuffer (R204), and the second call collides exactly
when a covered cell was off before the first. (R204 says "iff the sprite has at least one set bit", which R203 gives only
where the covered cells were not all on: log entry 17.) -/
def Obligations.DrawingTwiceRestoresDisplay : Prop :=
  ∀ fb x y rows r, drawSprite fb x y rows = .ok r → ∃ r', drawSprite r.1 x y rows = .ok r' ∧ r'.1 = fb ∧
    (r'.2 = true ↔ ∃ sx sy, SpriteCovers x y rows.length (fun k => rows.getD k 0) sx sy ∧ fb.get sx sy = false)

/-- getPixel and setPixel (R206, R207) over all integer coordinates (the spec's decision D28). -/
def Obligations.HostPixelAccessIsBounded : Prop :=
  ∀ (fb : FrameBuffer) (x y : Int),
    (0 ≤ x ∧ x < 64 ∧ 0 ≤ y ∧ y < 32 → ∃ (cx : Fin 64) (cy : Fin 32), (cx.val : Int) = x ∧ (cy.val : Int) = y ∧
      fb.getPixel x y = fb.get cx cy ∧
      ∀ b dx dy, (fb.setPixel x y b).get dx dy = if dx = cx ∧ dy = cy then b else fb.get dx dy) ∧
    (¬ (0 ≤ x ∧ x < 64 ∧ 0 ≤ y ∧ y < 32) → fb.getPixel x y = false ∧ ∀ b, fb.setPixel x y b = fb)

/-- `stats()` (R208) counts the cells that are on. That the answer stands in `hostAnswer`, which is what changes, is the
model's choice (log entry 8). -/
def Obligations.StatsCountsCellsOn : Prop :=
  ∀ s : State, (s.serve .stats).hostAnswer = some (.stats 64 32
    (Finset.univ.filter (fun c : Fin 64 × Fin 32 => s.fb.get c.1 c.2 = true)).card 2048) ∧
    OnlyChanges (fun f => f = .hostAnswer) s (s.serve .stats)

/-! ## Keypad and timers (45_input_timers.md, 60_exceptions.md) -/

/-- SkipKeyPressed and SkipKeyNotPressed (R220, R221) ask about the key in the low nibble of Vx. The answer is an injected
one first and else the free value of Config, the model's own form of the oracle of R264 (log entry 5). -/
def Obligations.KeySkipsAskForTheLowNibble : Prop :=
  ∀ x, Encodes (encodeXkk 0xE x 0x9E) (.skipKeyPressed x) ∧ Encodes (encodeXkk 0xE x 0xA1) (.skipKeyNotPressed x) ∧
    ∀ s, ∃ t u, ∃ p : Bool, exec (.skipKeyPressed x) s = .next t ∧ exec (.skipKeyNotPressed x) s = .next u ∧
    t.pc = (if p then s.pc + 2 else s.pc) ∧ u.pc = (if p then s.pc else s.pc + 2) ∧
    OnlyChanges (fun f => f = .pc ∨ f = .oracle) s t ∧ OnlyChanges (fun f => f = .pc ∨ f = .oracle) s u ∧
    (∀ b rest, s.oracle.keyStates = b :: rest → p = b ∧ t.oracle = { s.oracle with keyStates := rest } ∧ u.oracle = t.oracle) ∧
    (s.oracle.keyStates = [] → (∀ k : Key, k.val = (s.getV x).toNat % 16 → p = Config.keyPressed s.oracle.draws k) ∧
      t.oracle = { s.oracle with draws := s.oracle.draws + 1 } ∧ u.oracle = t.oracle)

/-- WaitKey (R222): stores the key taken and stays Running, or enters WaitingForKey(x). The answer a is an injected one
first and else the free value of Config, the model's own form of the oracle of R264 (log entry 5). -/
def Obligations.WaitKeyTakesKeyOrWaits : Prop :=
  ∀ x, Encodes (encodeXkk 0xF x 0x0A) (.waitKey x) ∧ ∀ s, ∃ t a, exec (.waitKey x) s = .next t ∧
    (∀ k : Key, a = some k → (t.getV x).toNat = k.val ∧ OnlyChanges (fun f => f = .v x ∨ f = .oracle) s t) ∧
    (a = none → t.execState = .waitingForKey x ∧ OnlyChanges (fun f => f = .execState ∨ f = .oracle) s t) ∧
    (∀ b rest, s.oracle.keyPresses = b :: rest → a = b ∧ t.oracle = { s.oracle with keyPresses := rest }) ∧
    (s.oracle.keyPresses = [] →
      a = Config.keyTaken s.oracle.draws ∧ t.oracle = { s.oracle with draws := s.oracle.draws + 1 })

/-- The waiting cycle (40_cycle.md R118): a key goes to V[r] and the CPU runs again, else nothing changes; PC stays.
The answer a is an injected one first and else the free value of Config, the model's own form of the oracle of R264 (log
entry 5). -/
def Obligations.WaitingCyclePollsForKey : Prop :=
  ∀ s r, s.fault = none → s.execState = .waitingForKey r → ∃ t a, cycle s = .next t ∧
    (∀ k : Key, a = some k → (t.getV r).toNat = k.val ∧ t.execState = .running ∧
      OnlyChanges (fun f => f = .v r ∨ f = .execState ∨ f = .oracle) s t) ∧
    (a = none → OnlyChanges (fun f => f = .oracle) s t) ∧
    (∀ b rest, s.oracle.keyPresses = b :: rest → a = b ∧ t.oracle = { s.oracle with keyPresses := rest }) ∧
    (s.oracle.keyPresses = [] →
      a = Config.keyTaken s.oracle.draws ∧ t.oracle = { s.oracle with draws := s.oracle.draws + 1 })

/-- LoadDelay, SetDelay and SetSound (R223, R224, R225). -/
def Obligations.TimerMovesCopyBytes : Prop :=
  ∀ x, Encodes (encodeXkk 0xF x 0x07) (.loadDelay x) ∧ Encodes (encodeXkk 0xF x 0x15) (.setDelay x) ∧
    Encodes (encodeXkk 0xF x 0x18) (.setSound x) ∧ ∀ s,
    (∃ t, exec (.loadDelay x) s = .next t ∧ t.getV x = s.dt ∧ OnlyChanges (fun f => f = .v x) s t) ∧
    (∃ t, exec (.setDelay x) s = .next t ∧ t.dt = s.getV x ∧ OnlyChanges (fun f => f = .dt) s t) ∧
    (∃ t, exec (.setSound x) s = .next t ∧ t.st = s.getV x ∧ (t.shouldBeep = true ↔ (s.getV x).toNat > 0) ∧
      OnlyChanges (fun f => f = .st) s t)

/-- `updateTimers()` (R250). -/
def Obligations.TickCountsDownToZero : Prop :=
  ∀ s : State, s.updateTimers.dt.toNat = s.dt.toNat - 1 ∧ s.updateTimers.st.toNat = s.st.toNat - 1 ∧
    OnlyChanges (fun f => f = .dt ∨ f = .st) s s.updateTimers

/-- The model's closed form for many ticks (log entry 6) is that many calls of `updateTimers` (R250, R251). -/
def Obligations.ManyTicksAreRepeatedTicks : Prop :=
  ∀ n (s : State), s.tickMany n = State.updateTimers^[n] s

/-! ## The cycle and its errors (40_cycle.md, 60_exceptions.md) -/

/-- A step at a Running, unfaulted state whose opcode decodes to i is exec of i with PC advanced (R112 to R114): exactly
that for a cycle the schedule asks for, and with the free ticks of R251 after it when there is no schedule. The schedule and
the free ticks are the model's form of the driver (log entries 6 and 7). -/
def Obligations.StepRunsTheDecodedInstruction : Prop :=
  ∀ s i, s.fault = none → s.execState = .running → s.pc.toNat ≤ 0xFFE →
    decode s.params.zeroFamilyMatch (wordOfBytes (s.mem.get s.pc.toNat) (s.mem.get (s.pc.toNat + 1))) = .ok i →
    (s.schedule = [] → step s = withFreeTicks (exec i { s with pc := s.pc + 2 })) ∧
    (∀ rest, s.schedule = .executeCycle :: rest → step s = exec i { s with pc := s.pc + 2, schedule := rest })

/-- The fetch's bounds check (R111, R116): InvalidProgramCounter, unwrapped, PC not advanced (the spec's
decision D11), nothing else changed. The Fault record is its decision D10. -/
def Obligations.FetchOutsideMemoryFails : Prop :=
  ∀ s, s.fault = none → s.execState = .running → s.pc.toNat > 0xFFE → ∃ t, cycle s = .next t ∧
    t.fault = some (.invalidProgramCounter s.pc) ∧ OnlyChanges (fun f => f = .fault) s t

/-- An illegal opcode fetched in a Running cycle (30_encoding.md R97) fails the cycle, wrapped, with PC advanced.
The Fault record is the spec's decision D10. -/
def Obligations.IllegalOpcodeFailsCycle : Prop :=
  ∀ s, s.fault = none → s.execState = .running → s.pc.toNat ≤ 0xFFE →
    let op := wordOfBytes (s.mem.get s.pc.toNat) (s.mem.get (s.pc.toNat + 1))
    (¬ ∃ r ∈ opcodeMap s.params.zeroFamilyMatch, op &&& r.mask = r.value) → ∃ t, cycle s = .next t ∧
      t.fault = some (.instructionExecutionFailed op s.pc (.unknownInstruction op)) ∧ t.pc = s.pc + 2 ∧
      OnlyChanges (fun f => f = .pc ∨ f = .fault) s t

/-- R116, R117 for every instruction: if it changes the Fault record, the new record wraps a cause with the opcode and the
fetch address, and nothing else changed (the spec's decisions D9, D10, D11; log entry 10). -/
def Obligations.FailedInstructionHasNoOtherEffect : Prop :=
  ∀ i s t, exec i s = .next t → t.fault ≠ s.fault → ∃ e, FailsWith i s e

/-- Every instruction answers a next state in every state: no state or operand stops or refuses one. A failing one
ends in a next state with the Fault record (40_cycle.md R120, R42 marked derived; log entry 9). -/
def Obligations.EveryInstructionAnswersNextState : Prop :=
  ∀ i s, ∃ t, exec i s = .next t

/-- The table of 10_state.md R43, whole: an instruction that did not fail changed only what its row names.
The oracle's own fields, which four instructions also write, are the model's (log entries 4 and 5). -/
def Obligations.InstructionsWriteOnlyTheirTableRow : Prop :=
  ∀ i s t, exec i s = .next t → t.fault = s.fault → OnlyChanges (writeSet i s) s t

/-- A Faulted machine has no cycle step (R121), while the driver's tick still runs (R251; the spec's decisions D10, D16), and
of all the host's calls only the reset clears the record (R38, R248). The name of the stop, the schedule and the answer field
are the model's (log entries 7, 8 and 9). -/
def Obligations.FaultedMachineStopsButTicks : Prop :=
  ∀ s e, s.fault = some e →
    (s.schedule = [] → step s = .fault (.machineFaulted e)) ∧
    (∀ rest, s.schedule = .executeCycle :: rest → step s = .fault (.machineFaulted e)) ∧
    (∀ rest, s.schedule = .updateTimers :: rest → ∃ t, step s = .next t ∧
      t.dt.toNat = s.dt.toNat - 1 ∧ t.st.toNat = s.st.toNat - 1 ∧
      OnlyChanges (fun f => f = .dt ∨ f = .st ∨ f = .schedule ∨ f = .hostAnswer) s t) ∧
    (∀ call rest, s.schedule = call :: rest → call ≠ .executeCycle → ∃ t, step s = .next t ∧
      t.fault = if call = .reset then none else some e)

/-! ## Invariants -/

/-- 10_state.md R28: PC never exceeds 0x10FE, kept by every step from every state (R28 is marked derived). -/
def Obligations.StepKeepsPcBounded : Prop :=
  ∀ s t, s.PcBounded → step s = .next t → t.PcBounded

/-- Construction, with every choice of the parameters (log entries 1 and 3), meets the bound of R28 (marked derived) and has
canonical memory, which is the model's own form (log entry 13). -/
def Obligations.ConstructionMeetsInvariants : Prop :=
  ∀ wp params font, (State.construct wp params font).PcBounded ∧ (State.construct wp params font).mem.wf

/-- Every step keeps memory in its canonical form, whose addresses are all in [0, 4096) (20_memory.md R53).
The form is the model's (log entry 13). -/
def Obligations.StepKeepsMemoryCanonical : Prop :=
  ∀ s t, s.mem.wf → step s = .next t → t.mem.wf

/-- In canonical form, equal contents are equal data (the model's form of R35, log entry 13). -/
def Obligations.CanonicalMemoriesAreDeterminedByReads : Prop :=
  ∀ m m' : Memory, m.wf → m'.wf → m.font = m'.font → (∀ a < 4096, m.get a = m'.get a) → m = m'

/-- WP is immutable after construction (10_state.md R40), and no step changes the other parameters of 00_scope.md R12: that
ZERO_FAMILY_MATCH, VF_DEST_POLICY, LOADSTORE_INCREMENTS_I and FONT are fields of the state is the model's choice (log entries
1 and 3). -/
def Obligations.StepKeepsConfiguration : Prop :=
  ∀ s t, step s = .next t → t.wp = s.wp ∧ t.params = s.params ∧ t.mem.font = s.mem.font

/-- Stack slots at SP and above are never observed (10_state.md R30): two states that differ only there step alike
(the spec's decision D22). -/
def Obligations.StackAboveSpIsUnobservable : Prop :=
  ∀ s t, AgreeBelowSp s t → SameOutcome AgreeBelowSp (step s) (step t)

/-- ST is read by no instruction (10_state.md R31): a different ST changes nothing but ST itself. -/
def Obligations.NoInstructionReadsSoundTimer : Prop :=
  ∀ i s b, ∃ t, exec i s = .next t ∧
    exec i { s with st := b } = .next { t with st := if (∃ x, i = .setSound x) then t.st else b }

/-! ## Memory controller, construction and reset (20_memory.md, 70_reset_and_hazards.md) -/

/-- readByte and writeByte (R55, R56) over all integer addresses, with the round trip. -/
def Obligations.ByteAccessChecksThenTransfers : Prop :=
  ∀ (m : Memory) (wp : Bool) (a : Int) (b : Byte),
    (¬ (0 ≤ a ∧ a < 4096) → m.readByte a = .error (.outOfBounds a) ∧ m.writeByte wp a b = .error (.outOfBounds a)) ∧
    (0 ≤ a ∧ a < 4096 → m.readByte a = .ok (m.get a.toNat)) ∧
    (0 ≤ a ∧ a ≤ 0x1FF → wp = true → m.writeByte wp a b = .error (.writeProtected a)) ∧
    (0 ≤ a ∧ a < 4096 → ¬ (wp = true ∧ a ≤ 0x1FF) → ∃ m', m.writeByte wp a b = .ok m' ∧ m'.readByte a = .ok b ∧
      ∀ c, c ≠ a.toNat → m'.get c = m.get c)

/-- readWord and writeWord (R57, R58): big-endian, both bytes in bounds, all or nothing (the spec's decisions D9, D13). -/
def Obligations.WordAccessIsBigEndianAllOrNothing : Prop :=
  ∀ (m : Memory) (wp : Bool) (a : Int) (w : Word),
    (¬ (0 ≤ a ∧ a + 1 < 4096) → m.readWord a = .error (.wordOutOfBounds a) ∧
      m.writeWord wp a w = .error (.wordOutOfBounds a)) ∧
    (0 ≤ a ∧ a + 1 < 4096 → ∃ v, m.readWord a = .ok v ∧
      v.toNat = (m.get a.toNat).toNat * 256 + (m.get (a.toNat + 1)).toNat) ∧
    (0 ≤ a ∧ a ≤ 0x1FF → wp = true → m.writeWord wp a w = .error (.writeProtected a)) ∧
    (0 ≤ a ∧ a + 1 < 4096 → ¬ (wp = true ∧ a ≤ 0x1FF) → ∃ m', m.writeWord wp a w = .ok m' ∧ m'.readWord a = .ok w ∧
      (m'.get a.toNat).toNat = w.toNat / 256 ∧ (m'.get (a.toNat + 1)).toNat = w.toNat % 256 ∧
      ∀ c, c ≠ a.toNat → c ≠ a.toNat + 1 → m'.get c = m.get c)

/-- loadRom (R60, R61): the whole payload at 0x200 and nothing else, whatever WP is, or RomTooLarge. That an
empty payload succeeds is the spec's decision D21. -/
def Obligations.LoadRomCopiesWholePayload : Prop :=
  ∀ (m : Memory) (bytes : List Byte),
    (bytes.length > 3584 → m.loadRom bytes = .error (.romTooLarge bytes.length)) ∧
    (bytes.length ≤ 3584 → ∃ m', m.loadRom bytes = .ok m' ∧
      (∀ k < bytes.length, bytes[k]? = some (m'.get (0x200 + k))) ∧
      ∀ c, ¬ (0x200 ≤ c ∧ c < 0x200 + bytes.length) → m'.get c = m.get c)

/-- A host write that fails (R56, R58, R61) leaves memory and the Fault record unchanged and reports the error.
The schedule's answer field is the model's (log entries 8 and 19). -/
def Obligations.FailedHostWriteChangesNothing : Prop :=
  ∀ s : State,
    (∀ a b e, s.mem.writeByte s.wp a b = .error e → (s.serve (.writeByte a b)).hostAnswer = some (.error e) ∧
      OnlyChanges (fun f => f = .hostAnswer) s (s.serve (.writeByte a b))) ∧
    (∀ a w e, s.mem.writeWord s.wp a w = .error e → (s.serve (.writeWord a w)).hostAnswer = some (.error e) ∧
      OnlyChanges (fun f => f = .hostAnswer) s (s.serve (.writeWord a w))) ∧
    (∀ l e, s.mem.loadRom l = .error e → (s.serve (.loadRom l)).hostAnswer = some (.error e) ∧
      OnlyChanges (fun f => f = .hostAnswer) s (s.serve (.loadRom l)))

/-- fontGlyphAddress (R62) over all integers. -/
def Obligations.FontGlyphAddressOrInvalidDigit : Prop :=
  ∀ d : Int, (0 ≤ d ∧ d ≤ 15 → ∃ w, fontGlyphAddress d = .ok w ∧ (w.toNat : Int) = 0x050 + d * 5) ∧
    (¬ (0 ≤ d ∧ d ≤ 15) → fontGlyphAddress d = .error (.invalidFontDigit d))

/-- Memory reset (R63): FONT at 0x050..0x09F and zero elsewhere, whatever was there, a loaded ROM included. It is a host
call of its own (R76), which changes nothing else but the host's answer (log entry 8), and the memory part of the machine reset,
which leaves WP alone (R282, the spec's decision D17). -/
def Obligations.MemoryResetZeroesAndRestoresFont : Prop :=
  (∀ m : Memory, (∀ k (h : k < 80), m.reset.get (0x050 + k) = m.font[k]) ∧
    (∀ a, ¬ (0x050 ≤ a ∧ a < 0x0A0) → m.reset.get a = 0) ∧ m.reset.font = m.font) ∧
  ∀ s : State, (s.serve .memoryReset).mem = s.mem.reset ∧
    OnlyChanges (fun f => (∃ a, f = .mem a) ∨ f = .hostAnswer) s (s.serve .memoryReset) ∧
    s.machineReset.mem = s.mem.reset ∧ s.machineReset.wp = s.wp

/-- Construction (R280) and the machine reset from any state (R281, R282) leave the values of 10_state.md R41. Construction
takes WP as its argument and a reset keeps it; FONT and the other parameters likewise (log entries 1 and 3). That one reset clears the display and
the Fault record too is the spec's decisions D10 and D17. -/
def Obligations.ResetLeavesInitialValues : Prop :=
  (∀ s : State, s.machineReset.HasInitialValues ∧ s.machineReset.wp = s.wp ∧ s.machineReset.mem.font = s.mem.font ∧
    s.machineReset.params = s.params) ∧
  (∀ wp params font, (State.construct wp params font).HasInitialValues ∧ (State.construct wp params font).wp = wp ∧
    (State.construct wp params font).mem.font = font ∧ (State.construct wp params font).params = params)

/-- With no ROM loaded the first cycle fetches 0x0000 at 0x200 and fails (R284, marked derived), for every
choice of the parameters. The Fault record is the spec's decision D10. -/
def Obligations.FirstCycleWithoutRomFails : Prop :=
  ∀ wp params font, ∃ t, cycle (State.construct wp params font) = .next t ∧ t.pc = 0x202 ∧
    t.fault = some (.instructionExecutionFailed 0x0000 0x200 (.unknownInstruction 0x0000))
end

