-- ==== Sys2Proof/Laws/State.lean ====
section
/-! SUPPORT. One lemma per field per state update, so that no later proof unfolds a record update. -/

namespace Sys2Proof.Machine

/-! ### setV -/

@[simp] theorem setV_v (s : State) (x : RegIdx) (b : Byte) : (s.setV x b).v = s.v.set x b := rfl
@[simp] theorem setV_i (s : State) (x : RegIdx) (b : Byte) : (s.setV x b).i = s.i := rfl
@[simp] theorem setV_pc (s : State) (x : RegIdx) (b : Byte) : (s.setV x b).pc = s.pc := rfl
@[simp] theorem setV_sp (s : State) (x : RegIdx) (b : Byte) : (s.setV x b).sp = s.sp := rfl
@[simp] theorem setV_stack (s : State) (x : RegIdx) (b : Byte) : (s.setV x b).stack = s.stack := rfl
@[simp] theorem setV_dt (s : State) (x : RegIdx) (b : Byte) : (s.setV x b).dt = s.dt := rfl
@[simp] theorem setV_st (s : State) (x : RegIdx) (b : Byte) : (s.setV x b).st = s.st := rfl
@[simp] theorem setV_execState (s : State) (x : RegIdx) (b : Byte) : (s.setV x b).execState = s.execState := rfl
@[simp] theorem setV_mem (s : State) (x : RegIdx) (b : Byte) : (s.setV x b).mem = s.mem := rfl
@[simp] theorem setV_fb (s : State) (x : RegIdx) (b : Byte) : (s.setV x b).fb = s.fb := rfl
@[simp] theorem setV_wp (s : State) (x : RegIdx) (b : Byte) : (s.setV x b).wp = s.wp := rfl
@[simp] theorem setV_fault (s : State) (x : RegIdx) (b : Byte) : (s.setV x b).fault = s.fault := rfl
@[simp] theorem setV_params (s : State) (x : RegIdx) (b : Byte) : (s.setV x b).params = s.params := rfl
@[simp] theorem setV_oracle (s : State) (x : RegIdx) (b : Byte) : (s.setV x b).oracle = s.oracle := rfl
@[simp] theorem setV_schedule (s : State) (x : RegIdx) (b : Byte) : (s.setV x b).schedule = s.schedule := rfl
@[simp] theorem setV_hostAnswer (s : State) (x : RegIdx) (b : Byte) : (s.setV x b).hostAnswer = s.hostAnswer := rfl

/-! ### advance -/

@[simp] theorem advance_v (s : State) : (s.advance).v = s.v := rfl
@[simp] theorem advance_i (s : State) : (s.advance).i = s.i := rfl
@[simp] theorem advance_pc (s : State) : (s.advance).pc = s.pc + 2 := rfl
@[simp] theorem advance_sp (s : State) : (s.advance).sp = s.sp := rfl
@[simp] theorem advance_stack (s : State) : (s.advance).stack = s.stack := rfl
@[simp] theorem advance_dt (s : State) : (s.advance).dt = s.dt := rfl
@[simp] theorem advance_st (s : State) : (s.advance).st = s.st := rfl
@[simp] theorem advance_execState (s : State) : (s.advance).execState = s.execState := rfl
@[simp] theorem advance_mem (s : State) : (s.advance).mem = s.mem := rfl
@[simp] theorem advance_fb (s : State) : (s.advance).fb = s.fb := rfl
@[simp] theorem advance_wp (s : State) : (s.advance).wp = s.wp := rfl
@[simp] theorem advance_fault (s : State) : (s.advance).fault = s.fault := rfl
@[simp] theorem advance_params (s : State) : (s.advance).params = s.params := rfl
@[simp] theorem advance_oracle (s : State) : (s.advance).oracle = s.oracle := rfl
@[simp] theorem advance_schedule (s : State) : (s.advance).schedule = s.schedule := rfl
@[simp] theorem advance_hostAnswer (s : State) : (s.advance).hostAnswer = s.hostAnswer := rfl
@[simp] theorem advance_getV (s : State) (r : RegIdx) : (s.advance).getV r = s.getV r := rfl

/-! ### skip -/

@[simp] theorem skip_v (s : State) : (s.skip).v = s.v := rfl
@[simp] theorem skip_i (s : State) : (s.skip).i = s.i := rfl
@[simp] theorem skip_pc (s : State) : (s.skip).pc = s.pc + 2 := rfl
@[simp] theorem skip_sp (s : State) : (s.skip).sp = s.sp := rfl
@[simp] theorem skip_stack (s : State) : (s.skip).stack = s.stack := rfl
@[simp] theorem skip_dt (s : State) : (s.skip).dt = s.dt := rfl
@[simp] theorem skip_st (s : State) : (s.skip).st = s.st := rfl
@[simp] theorem skip_execState (s : State) : (s.skip).execState = s.execState := rfl
@[simp] theorem skip_mem (s : State) : (s.skip).mem = s.mem := rfl
@[simp] theorem skip_fb (s : State) : (s.skip).fb = s.fb := rfl
@[simp] theorem skip_wp (s : State) : (s.skip).wp = s.wp := rfl
@[simp] theorem skip_fault (s : State) : (s.skip).fault = s.fault := rfl
@[simp] theorem skip_params (s : State) : (s.skip).params = s.params := rfl
@[simp] theorem skip_oracle (s : State) : (s.skip).oracle = s.oracle := rfl
@[simp] theorem skip_schedule (s : State) : (s.skip).schedule = s.schedule := rfl
@[simp] theorem skip_hostAnswer (s : State) : (s.skip).hostAnswer = s.hostAnswer := rfl
@[simp] theorem skip_getV (s : State) (r : RegIdx) : (s.skip).getV r = s.getV r := rfl

/-! ### jumpTo -/

@[simp] theorem jumpTo_v (s : State) (w : Word) : (s.jumpTo w).v = s.v := rfl
@[simp] theorem jumpTo_i (s : State) (w : Word) : (s.jumpTo w).i = s.i := rfl
@[simp] theorem jumpTo_pc (s : State) (w : Word) : (s.jumpTo w).pc = w := rfl
@[simp] theorem jumpTo_sp (s : State) (w : Word) : (s.jumpTo w).sp = s.sp := rfl
@[simp] theorem jumpTo_stack (s : State) (w : Word) : (s.jumpTo w).stack = s.stack := rfl
@[simp] theorem jumpTo_dt (s : State) (w : Word) : (s.jumpTo w).dt = s.dt := rfl
@[simp] theorem jumpTo_st (s : State) (w : Word) : (s.jumpTo w).st = s.st := rfl
@[simp] theorem jumpTo_execState (s : State) (w : Word) : (s.jumpTo w).execState = s.execState := rfl
@[simp] theorem jumpTo_mem (s : State) (w : Word) : (s.jumpTo w).mem = s.mem := rfl
@[simp] theorem jumpTo_fb (s : State) (w : Word) : (s.jumpTo w).fb = s.fb := rfl
@[simp] theorem jumpTo_wp (s : State) (w : Word) : (s.jumpTo w).wp = s.wp := rfl
@[simp] theorem jumpTo_fault (s : State) (w : Word) : (s.jumpTo w).fault = s.fault := rfl
@[simp] theorem jumpTo_params (s : State) (w : Word) : (s.jumpTo w).params = s.params := rfl
@[simp] theorem jumpTo_oracle (s : State) (w : Word) : (s.jumpTo w).oracle = s.oracle := rfl
@[simp] theorem jumpTo_schedule (s : State) (w : Word) : (s.jumpTo w).schedule = s.schedule := rfl
@[simp] theorem jumpTo_hostAnswer (s : State) (w : Word) : (s.jumpTo w).hostAnswer = s.hostAnswer := rfl
@[simp] theorem jumpTo_getV (s : State) (w : Word) (r : RegIdx) : (s.jumpTo w).getV r = s.getV r := rfl

/-! ### setI -/

@[simp] theorem setI_v (s : State) (w : Word) : (s.setI w).v = s.v := rfl
@[simp] theorem setI_i (s : State) (w : Word) : (s.setI w).i = w := rfl
@[simp] theorem setI_pc (s : State) (w : Word) : (s.setI w).pc = s.pc := rfl
@[simp] theorem setI_sp (s : State) (w : Word) : (s.setI w).sp = s.sp := rfl
@[simp] theorem setI_stack (s : State) (w : Word) : (s.setI w).stack = s.stack := rfl
@[simp] theorem setI_dt (s : State) (w : Word) : (s.setI w).dt = s.dt := rfl
@[simp] theorem setI_st (s : State) (w : Word) : (s.setI w).st = s.st := rfl
@[simp] theorem setI_execState (s : State) (w : Word) : (s.setI w).execState = s.execState := rfl
@[simp] theorem setI_mem (s : State) (w : Word) : (s.setI w).mem = s.mem := rfl
@[simp] theorem setI_fb (s : State) (w : Word) : (s.setI w).fb = s.fb := rfl
@[simp] theorem setI_wp (s : State) (w : Word) : (s.setI w).wp = s.wp := rfl
@[simp] theorem setI_fault (s : State) (w : Word) : (s.setI w).fault = s.fault := rfl
@[simp] theorem setI_params (s : State) (w : Word) : (s.setI w).params = s.params := rfl
@[simp] theorem setI_oracle (s : State) (w : Word) : (s.setI w).oracle = s.oracle := rfl
@[simp] theorem setI_schedule (s : State) (w : Word) : (s.setI w).schedule = s.schedule := rfl
@[simp] theorem setI_hostAnswer (s : State) (w : Word) : (s.setI w).hostAnswer = s.hostAnswer := rfl
@[simp] theorem setI_getV (s : State) (w : Word) (r : RegIdx) : (s.setI w).getV r = s.getV r := rfl

/-! ### fail -/

@[simp] theorem fail_v (s : State) (e : CoreError) : (s.fail e).v = s.v := rfl
@[simp] theorem fail_i (s : State) (e : CoreError) : (s.fail e).i = s.i := rfl
@[simp] theorem fail_pc (s : State) (e : CoreError) : (s.fail e).pc = s.pc := rfl
@[simp] theorem fail_sp (s : State) (e : CoreError) : (s.fail e).sp = s.sp := rfl
@[simp] theorem fail_stack (s : State) (e : CoreError) : (s.fail e).stack = s.stack := rfl
@[simp] theorem fail_dt (s : State) (e : CoreError) : (s.fail e).dt = s.dt := rfl
@[simp] theorem fail_st (s : State) (e : CoreError) : (s.fail e).st = s.st := rfl
@[simp] theorem fail_execState (s : State) (e : CoreError) : (s.fail e).execState = s.execState := rfl
@[simp] theorem fail_mem (s : State) (e : CoreError) : (s.fail e).mem = s.mem := rfl
@[simp] theorem fail_fb (s : State) (e : CoreError) : (s.fail e).fb = s.fb := rfl
@[simp] theorem fail_wp (s : State) (e : CoreError) : (s.fail e).wp = s.wp := rfl
@[simp] theorem fail_fault (s : State) (e : CoreError) : (s.fail e).fault = some (.instructionExecutionFailed s.currentOpcode s.fetchAddress e) := rfl
@[simp] theorem fail_params (s : State) (e : CoreError) : (s.fail e).params = s.params := rfl
@[simp] theorem fail_oracle (s : State) (e : CoreError) : (s.fail e).oracle = s.oracle := rfl
@[simp] theorem fail_schedule (s : State) (e : CoreError) : (s.fail e).schedule = s.schedule := rfl
@[simp] theorem fail_hostAnswer (s : State) (e : CoreError) : (s.fail e).hostAnswer = s.hostAnswer := rfl
@[simp] theorem fail_getV (s : State) (e : CoreError) (r : RegIdx) : (s.fail e).getV r = s.getV r := rfl

/-! ### failFetch -/

@[simp] theorem failFetch_v (s : State) : (s.failFetch).v = s.v := rfl
@[simp] theorem failFetch_i (s : State) : (s.failFetch).i = s.i := rfl
@[simp] theorem failFetch_pc (s : State) : (s.failFetch).pc = s.pc := rfl
@[simp] theorem failFetch_sp (s : State) : (s.failFetch).sp = s.sp := rfl
@[simp] theorem failFetch_stack (s : State) : (s.failFetch).stack = s.stack := rfl
@[simp] theorem failFetch_dt (s : State) : (s.failFetch).dt = s.dt := rfl
@[simp] theorem failFetch_st (s : State) : (s.failFetch).st = s.st := rfl
@[simp] theorem failFetch_execState (s : State) : (s.failFetch).execState = s.execState := rfl
@[simp] theorem failFetch_mem (s : State) : (s.failFetch).mem = s.mem := rfl
@[simp] theorem failFetch_fb (s : State) : (s.failFetch).fb = s.fb := rfl
@[simp] theorem failFetch_wp (s : State) : (s.failFetch).wp = s.wp := rfl
@[simp] theorem failFetch_fault (s : State) : (s.failFetch).fault = some (.invalidProgramCounter s.pc) := rfl
@[simp] theorem failFetch_params (s : State) : (s.failFetch).params = s.params := rfl
@[simp] theorem failFetch_oracle (s : State) : (s.failFetch).oracle = s.oracle := rfl
@[simp] theorem failFetch_schedule (s : State) : (s.failFetch).schedule = s.schedule := rfl
@[simp] theorem failFetch_hostAnswer (s : State) : (s.failFetch).hostAnswer = s.hostAnswer := rfl
@[simp] theorem failFetch_getV (s : State) (r : RegIdx) : (s.failFetch).getV r = s.getV r := rfl

/-! ### updateTimers -/

@[simp] theorem updateTimers_v (s : State) : (s.updateTimers).v = s.v := rfl
@[simp] theorem updateTimers_i (s : State) : (s.updateTimers).i = s.i := rfl
@[simp] theorem updateTimers_pc (s : State) : (s.updateTimers).pc = s.pc := rfl
@[simp] theorem updateTimers_sp (s : State) : (s.updateTimers).sp = s.sp := rfl
@[simp] theorem updateTimers_stack (s : State) : (s.updateTimers).stack = s.stack := rfl
@[simp] theorem updateTimers_dt (s : State) : (s.updateTimers).dt = tickDown s.dt := rfl
@[simp] theorem updateTimers_st (s : State) : (s.updateTimers).st = tickDown s.st := rfl
@[simp] theorem updateTimers_execState (s : State) : (s.updateTimers).execState = s.execState := rfl
@[simp] theorem updateTimers_mem (s : State) : (s.updateTimers).mem = s.mem := rfl
@[simp] theorem updateTimers_fb (s : State) : (s.updateTimers).fb = s.fb := rfl
@[simp] theorem updateTimers_wp (s : State) : (s.updateTimers).wp = s.wp := rfl
@[simp] theorem updateTimers_fault (s : State) : (s.updateTimers).fault = s.fault := rfl
@[simp] theorem updateTimers_params (s : State) : (s.updateTimers).params = s.params := rfl
@[simp] theorem updateTimers_oracle (s : State) : (s.updateTimers).oracle = s.oracle := rfl
@[simp] theorem updateTimers_schedule (s : State) : (s.updateTimers).schedule = s.schedule := rfl
@[simp] theorem updateTimers_hostAnswer (s : State) : (s.updateTimers).hostAnswer = s.hostAnswer := rfl
@[simp] theorem updateTimers_getV (s : State) (r : RegIdx) : (s.updateTimers).getV r = s.getV r := rfl

/-! ### tickMany -/

@[simp] theorem tickMany_v (s : State) (n : Nat) : (s.tickMany n).v = s.v := rfl
@[simp] theorem tickMany_i (s : State) (n : Nat) : (s.tickMany n).i = s.i := rfl
@[simp] theorem tickMany_pc (s : State) (n : Nat) : (s.tickMany n).pc = s.pc := rfl
@[simp] theorem tickMany_sp (s : State) (n : Nat) : (s.tickMany n).sp = s.sp := rfl
@[simp] theorem tickMany_stack (s : State) (n : Nat) : (s.tickMany n).stack = s.stack := rfl
@[simp] theorem tickMany_dt (s : State) (n : Nat) : (s.tickMany n).dt = tickDownBy n s.dt := rfl
@[simp] theorem tickMany_st (s : State) (n : Nat) : (s.tickMany n).st = tickDownBy n s.st := rfl
@[simp] theorem tickMany_execState (s : State) (n : Nat) : (s.tickMany n).execState = s.execState := rfl
@[simp] theorem tickMany_mem (s : State) (n : Nat) : (s.tickMany n).mem = s.mem := rfl
@[simp] theorem tickMany_fb (s : State) (n : Nat) : (s.tickMany n).fb = s.fb := rfl
@[simp] theorem tickMany_wp (s : State) (n : Nat) : (s.tickMany n).wp = s.wp := rfl
@[simp] theorem tickMany_fault (s : State) (n : Nat) : (s.tickMany n).fault = s.fault := rfl
@[simp] theorem tickMany_params (s : State) (n : Nat) : (s.tickMany n).params = s.params := rfl
@[simp] theorem tickMany_oracle (s : State) (n : Nat) : (s.tickMany n).oracle = s.oracle := rfl
@[simp] theorem tickMany_schedule (s : State) (n : Nat) : (s.tickMany n).schedule = s.schedule := rfl
@[simp] theorem tickMany_hostAnswer (s : State) (n : Nat) : (s.tickMany n).hostAnswer = s.hostAnswer := rfl
@[simp] theorem tickMany_getV (s : State) (n : Nat) (r : RegIdx) : (s.tickMany n).getV r = s.getV r := rfl

/-! ### countDraw -/

@[simp] theorem countDraw_v (s : State) : (s.countDraw).v = s.v := rfl
@[simp] theorem countDraw_i (s : State) : (s.countDraw).i = s.i := rfl
@[simp] theorem countDraw_pc (s : State) : (s.countDraw).pc = s.pc := rfl
@[simp] theorem countDraw_sp (s : State) : (s.countDraw).sp = s.sp := rfl
@[simp] theorem countDraw_stack (s : State) : (s.countDraw).stack = s.stack := rfl
@[simp] theorem countDraw_dt (s : State) : (s.countDraw).dt = s.dt := rfl
@[simp] theorem countDraw_st (s : State) : (s.countDraw).st = s.st := rfl
@[simp] theorem countDraw_execState (s : State) : (s.countDraw).execState = s.execState := rfl
@[simp] theorem countDraw_mem (s : State) : (s.countDraw).mem = s.mem := rfl
@[simp] theorem countDraw_fb (s : State) : (s.countDraw).fb = s.fb := rfl
@[simp] theorem countDraw_wp (s : State) : (s.countDraw).wp = s.wp := rfl
@[simp] theorem countDraw_fault (s : State) : (s.countDraw).fault = s.fault := rfl
@[simp] theorem countDraw_params (s : State) : (s.countDraw).params = s.params := rfl
@[simp] theorem countDraw_schedule (s : State) : (s.countDraw).schedule = s.schedule := rfl
@[simp] theorem countDraw_hostAnswer (s : State) : (s.countDraw).hostAnswer = s.hostAnswer := rfl
@[simp] theorem countDraw_getV (s : State) (r : RegIdx) : (s.countDraw).getV r = s.getV r := rfl

/-! ### freeTicks -/

@[simp] theorem freeTicks_v (s : State) : (s.freeTicks).v = s.v := rfl
@[simp] theorem freeTicks_i (s : State) : (s.freeTicks).i = s.i := rfl
@[simp] theorem freeTicks_pc (s : State) : (s.freeTicks).pc = s.pc := rfl
@[simp] theorem freeTicks_sp (s : State) : (s.freeTicks).sp = s.sp := rfl
@[simp] theorem freeTicks_stack (s : State) : (s.freeTicks).stack = s.stack := rfl
@[simp] theorem freeTicks_dt (s : State) : (s.freeTicks).dt = tickDownBy (Config.ticks s.oracle.draws) s.dt := rfl
@[simp] theorem freeTicks_st (s : State) : (s.freeTicks).st = tickDownBy (Config.ticks s.oracle.draws) s.st := rfl
@[simp] theorem freeTicks_execState (s : State) : (s.freeTicks).execState = s.execState := rfl
@[simp] theorem freeTicks_mem (s : State) : (s.freeTicks).mem = s.mem := rfl
@[simp] theorem freeTicks_fb (s : State) : (s.freeTicks).fb = s.fb := rfl
@[simp] theorem freeTicks_wp (s : State) : (s.freeTicks).wp = s.wp := rfl
@[simp] theorem freeTicks_fault (s : State) : (s.freeTicks).fault = s.fault := rfl
@[simp] theorem freeTicks_params (s : State) : (s.freeTicks).params = s.params := rfl
@[simp] theorem freeTicks_schedule (s : State) : (s.freeTicks).schedule = s.schedule := rfl
@[simp] theorem freeTicks_hostAnswer (s : State) : (s.freeTicks).hostAnswer = s.hostAnswer := rfl
@[simp] theorem freeTicks_getV (s : State) (r : RegIdx) : (s.freeTicks).getV r = s.getV r := rfl

/-! ### setResultThenFlag -/

@[simp] theorem setResultThenFlag_i (s : State) (x : RegIdx) (a f : Byte) : (s.setResultThenFlag x a f).i = s.i := rfl
@[simp] theorem setResultThenFlag_pc (s : State) (x : RegIdx) (a f : Byte) : (s.setResultThenFlag x a f).pc = s.pc := rfl
@[simp] theorem setResultThenFlag_sp (s : State) (x : RegIdx) (a f : Byte) : (s.setResultThenFlag x a f).sp = s.sp := rfl
@[simp] theorem setResultThenFlag_stack (s : State) (x : RegIdx) (a f : Byte) : (s.setResultThenFlag x a f).stack = s.stack := rfl
@[simp] theorem setResultThenFlag_dt (s : State) (x : RegIdx) (a f : Byte) : (s.setResultThenFlag x a f).dt = s.dt := rfl
@[simp] theorem setResultThenFlag_st (s : State) (x : RegIdx) (a f : Byte) : (s.setResultThenFlag x a f).st = s.st := rfl
@[simp] theorem setResultThenFlag_execState (s : State) (x : RegIdx) (a f : Byte) : (s.setResultThenFlag x a f).execState = s.execState := rfl
@[simp] theorem setResultThenFlag_mem (s : State) (x : RegIdx) (a f : Byte) : (s.setResultThenFlag x a f).mem = s.mem := rfl
@[simp] theorem setResultThenFlag_fb (s : State) (x : RegIdx) (a f : Byte) : (s.setResultThenFlag x a f).fb = s.fb := rfl
@[simp] theorem setResultThenFlag_wp (s : State) (x : RegIdx) (a f : Byte) : (s.setResultThenFlag x a f).wp = s.wp := rfl
@[simp] theorem setResultThenFlag_fault (s : State) (x : RegIdx) (a f : Byte) : (s.setResultThenFlag x a f).fault = s.fault := rfl
@[simp] theorem setResultThenFlag_params (s : State) (x : RegIdx) (a f : Byte) : (s.setResultThenFlag x a f).params = s.params := rfl
@[simp] theorem setResultThenFlag_oracle (s : State) (x : RegIdx) (a f : Byte) : (s.setResultThenFlag x a f).oracle = s.oracle := rfl
@[simp] theorem setResultThenFlag_schedule (s : State) (x : RegIdx) (a f : Byte) : (s.setResultThenFlag x a f).schedule = s.schedule := rfl
@[simp] theorem setResultThenFlag_hostAnswer (s : State) (x : RegIdx) (a f : Byte) : (s.setResultThenFlag x a f).hostAnswer = s.hostAnswer := rfl

/-! ### setShift -/

@[simp] theorem setShift_i (s : State) (x : RegIdx) (f g : Byte → Byte) : (s.setShift x f g).i = s.i := by
  unfold State.setShift
  split <;> rfl
@[simp] theorem setShift_pc (s : State) (x : RegIdx) (f g : Byte → Byte) : (s.setShift x f g).pc = s.pc := by
  unfold State.setShift
  split <;> rfl
@[simp] theorem setShift_sp (s : State) (x : RegIdx) (f g : Byte → Byte) : (s.setShift x f g).sp = s.sp := by
  unfold State.setShift
  split <;> rfl
@[simp] theorem setShift_stack (s : State) (x : RegIdx) (f g : Byte → Byte) : (s.setShift x f g).stack = s.stack := by
  unfold State.setShift
  split <;> rfl
@[simp] theorem setShift_dt (s : State) (x : RegIdx) (f g : Byte → Byte) : (s.setShift x f g).dt = s.dt := by
  unfold State.setShift
  split <;> rfl
@[simp] theorem setShift_st (s : State) (x : RegIdx) (f g : Byte → Byte) : (s.setShift x f g).st = s.st := by
  unfold State.setShift
  split <;> rfl
@[simp] theorem setShift_execState (s : State) (x : RegIdx) (f g : Byte → Byte) : (s.setShift x f g).execState = s.execState := by
  unfold State.setShift
  split <;> rfl
@[simp] theorem setShift_mem (s : State) (x : RegIdx) (f g : Byte → Byte) : (s.setShift x f g).mem = s.mem := by
  unfold State.setShift
  split <;> rfl
@[simp] theorem setShift_fb (s : State) (x : RegIdx) (f g : Byte → Byte) : (s.setShift x f g).fb = s.fb := by
  unfold State.setShift
  split <;> rfl
@[simp] theorem setShift_wp (s : State) (x : RegIdx) (f g : Byte → Byte) : (s.setShift x f g).wp = s.wp := by
  unfold State.setShift
  split <;> rfl
@[simp] theorem setShift_fault (s : State) (x : RegIdx) (f g : Byte → Byte) : (s.setShift x f g).fault = s.fault := by
  unfold State.setShift
  split <;> rfl
@[simp] theorem setShift_params (s : State) (x : RegIdx) (f g : Byte → Byte) : (s.setShift x f g).params = s.params := by
  unfold State.setShift
  split <;> rfl
@[simp] theorem setShift_oracle (s : State) (x : RegIdx) (f g : Byte → Byte) : (s.setShift x f g).oracle = s.oracle := by
  unfold State.setShift
  split <;> rfl
@[simp] theorem setShift_schedule (s : State) (x : RegIdx) (f g : Byte → Byte) : (s.setShift x f g).schedule = s.schedule := by
  unfold State.setShift
  split <;> rfl
@[simp] theorem setShift_hostAnswer (s : State) (x : RegIdx) (f g : Byte → Byte) : (s.setShift x f g).hostAnswer = s.hostAnswer := by
  unfold State.setShift
  split <;> rfl

/-! ### setRegistersUpTo -/

@[simp] theorem setRegistersUpTo_i (s : State) (x : RegIdx) (l : List Byte) : (s.setRegistersUpTo x l).i = s.i := rfl
@[simp] theorem setRegistersUpTo_pc (s : State) (x : RegIdx) (l : List Byte) : (s.setRegistersUpTo x l).pc = s.pc := rfl
@[simp] theorem setRegistersUpTo_sp (s : State) (x : RegIdx) (l : List Byte) : (s.setRegistersUpTo x l).sp = s.sp := rfl
@[simp] theorem setRegistersUpTo_stack (s : State) (x : RegIdx) (l : List Byte) : (s.setRegistersUpTo x l).stack = s.stack := rfl
@[simp] theorem setRegistersUpTo_dt (s : State) (x : RegIdx) (l : List Byte) : (s.setRegistersUpTo x l).dt = s.dt := rfl
@[simp] theorem setRegistersUpTo_st (s : State) (x : RegIdx) (l : List Byte) : (s.setRegistersUpTo x l).st = s.st := rfl
@[simp] theorem setRegistersUpTo_execState (s : State) (x : RegIdx) (l : List Byte) : (s.setRegistersUpTo x l).execState = s.execState := rfl
@[simp] theorem setRegistersUpTo_mem (s : State) (x : RegIdx) (l : List Byte) : (s.setRegistersUpTo x l).mem = s.mem := rfl
@[simp] theorem setRegistersUpTo_fb (s : State) (x : RegIdx) (l : List Byte) : (s.setRegistersUpTo x l).fb = s.fb := rfl
@[simp] theorem setRegistersUpTo_wp (s : State) (x : RegIdx) (l : List Byte) : (s.setRegistersUpTo x l).wp = s.wp := rfl
@[simp] theorem setRegistersUpTo_fault (s : State) (x : RegIdx) (l : List Byte) : (s.setRegistersUpTo x l).fault = s.fault := rfl
@[simp] theorem setRegistersUpTo_params (s : State) (x : RegIdx) (l : List Byte) : (s.setRegistersUpTo x l).params = s.params := rfl
@[simp] theorem setRegistersUpTo_oracle (s : State) (x : RegIdx) (l : List Byte) : (s.setRegistersUpTo x l).oracle = s.oracle := rfl
@[simp] theorem setRegistersUpTo_schedule (s : State) (x : RegIdx) (l : List Byte) : (s.setRegistersUpTo x l).schedule = s.schedule := rfl
@[simp] theorem setRegistersUpTo_hostAnswer (s : State) (x : RegIdx) (l : List Byte) : (s.setRegistersUpTo x l).hostAnswer = s.hostAnswer := rfl

/-! ### stepIndex -/

@[simp] theorem stepIndex_v (s : State) (x : RegIdx) : (s.stepIndex x).v = s.v := by
  unfold State.stepIndex
  split <;> rfl
@[simp] theorem stepIndex_pc (s : State) (x : RegIdx) : (s.stepIndex x).pc = s.pc := by
  unfold State.stepIndex
  split <;> rfl
@[simp] theorem stepIndex_sp (s : State) (x : RegIdx) : (s.stepIndex x).sp = s.sp := by
  unfold State.stepIndex
  split <;> rfl
@[simp] theorem stepIndex_stack (s : State) (x : RegIdx) : (s.stepIndex x).stack = s.stack := by
  unfold State.stepIndex
  split <;> rfl
@[simp] theorem stepIndex_dt (s : State) (x : RegIdx) : (s.stepIndex x).dt = s.dt := by
  unfold State.stepIndex
  split <;> rfl
@[simp] theorem stepIndex_st (s : State) (x : RegIdx) : (s.stepIndex x).st = s.st := by
  unfold State.stepIndex
  split <;> rfl
@[simp] theorem stepIndex_execState (s : State) (x : RegIdx) : (s.stepIndex x).execState = s.execState := by
  unfold State.stepIndex
  split <;> rfl
@[simp] theorem stepIndex_mem (s : State) (x : RegIdx) : (s.stepIndex x).mem = s.mem := by
  unfold State.stepIndex
  split <;> rfl
@[simp] theorem stepIndex_fb (s : State) (x : RegIdx) : (s.stepIndex x).fb = s.fb := by
  unfold State.stepIndex
  split <;> rfl
@[simp] theorem stepIndex_wp (s : State) (x : RegIdx) : (s.stepIndex x).wp = s.wp := by
  unfold State.stepIndex
  split <;> rfl
@[simp] theorem stepIndex_fault (s : State) (x : RegIdx) : (s.stepIndex x).fault = s.fault := by
  unfold State.stepIndex
  split <;> rfl
@[simp] theorem stepIndex_params (s : State) (x : RegIdx) : (s.stepIndex x).params = s.params := by
  unfold State.stepIndex
  split <;> rfl
@[simp] theorem stepIndex_oracle (s : State) (x : RegIdx) : (s.stepIndex x).oracle = s.oracle := by
  unfold State.stepIndex
  split <;> rfl
@[simp] theorem stepIndex_schedule (s : State) (x : RegIdx) : (s.stepIndex x).schedule = s.schedule := by
  unfold State.stepIndex
  split <;> rfl
@[simp] theorem stepIndex_hostAnswer (s : State) (x : RegIdx) : (s.stepIndex x).hostAnswer = s.hostAnswer := by
  unfold State.stepIndex
  split <;> rfl
@[simp] theorem stepIndex_getV (s : State) (x : RegIdx) (r : RegIdx) : (s.stepIndex x).getV r = s.getV r := by
  unfold State.stepIndex
  split <;> rfl

/-! ### skipIf -/

@[simp] theorem skipIf_v (s : State) (c : Bool) : (s.skipIf c).v = s.v := by
  cases c <;> rfl
@[simp] theorem skipIf_i (s : State) (c : Bool) : (s.skipIf c).i = s.i := by
  cases c <;> rfl
@[simp] theorem skipIf_sp (s : State) (c : Bool) : (s.skipIf c).sp = s.sp := by
  cases c <;> rfl
@[simp] theorem skipIf_stack (s : State) (c : Bool) : (s.skipIf c).stack = s.stack := by
  cases c <;> rfl
@[simp] theorem skipIf_dt (s : State) (c : Bool) : (s.skipIf c).dt = s.dt := by
  cases c <;> rfl
@[simp] theorem skipIf_st (s : State) (c : Bool) : (s.skipIf c).st = s.st := by
  cases c <;> rfl
@[simp] theorem skipIf_execState (s : State) (c : Bool) : (s.skipIf c).execState = s.execState := by
  cases c <;> rfl
@[simp] theorem skipIf_mem (s : State) (c : Bool) : (s.skipIf c).mem = s.mem := by
  cases c <;> rfl
@[simp] theorem skipIf_fb (s : State) (c : Bool) : (s.skipIf c).fb = s.fb := by
  cases c <;> rfl
@[simp] theorem skipIf_wp (s : State) (c : Bool) : (s.skipIf c).wp = s.wp := by
  cases c <;> rfl
@[simp] theorem skipIf_fault (s : State) (c : Bool) : (s.skipIf c).fault = s.fault := by
  cases c <;> rfl
@[simp] theorem skipIf_params (s : State) (c : Bool) : (s.skipIf c).params = s.params := by
  cases c <;> rfl
@[simp] theorem skipIf_oracle (s : State) (c : Bool) : (s.skipIf c).oracle = s.oracle := by
  cases c <;> rfl
@[simp] theorem skipIf_schedule (s : State) (c : Bool) : (s.skipIf c).schedule = s.schedule := by
  cases c <;> rfl
@[simp] theorem skipIf_hostAnswer (s : State) (c : Bool) : (s.skipIf c).hostAnswer = s.hostAnswer := by
  cases c <;> rfl
@[simp] theorem skipIf_getV (s : State) (c : Bool) (r : RegIdx) : (s.skipIf c).getV r = s.getV r := by
  cases c <;> rfl

/-! ### randomByte -/

@[simp] theorem randomByte_v (s : State) : (s.randomByte.2).v = s.v := by
  unfold State.randomByte
  split <;> rfl
@[simp] theorem randomByte_i (s : State) : (s.randomByte.2).i = s.i := by
  unfold State.randomByte
  split <;> rfl
@[simp] theorem randomByte_pc (s : State) : (s.randomByte.2).pc = s.pc := by
  unfold State.randomByte
  split <;> rfl
@[simp] theorem randomByte_sp (s : State) : (s.randomByte.2).sp = s.sp := by
  unfold State.randomByte
  split <;> rfl
@[simp] theorem randomByte_stack (s : State) : (s.randomByte.2).stack = s.stack := by
  unfold State.randomByte
  split <;> rfl
@[simp] theorem randomByte_dt (s : State) : (s.randomByte.2).dt = s.dt := by
  unfold State.randomByte
  split <;> rfl
@[simp] theorem randomByte_st (s : State) : (s.randomByte.2).st = s.st := by
  unfold State.randomByte
  split <;> rfl
@[simp] theorem randomByte_execState (s : State) : (s.randomByte.2).execState = s.execState := by
  unfold State.randomByte
  split <;> rfl
@[simp] theorem randomByte_mem (s : State) : (s.randomByte.2).mem = s.mem := by
  unfold State.randomByte
  split <;> rfl
@[simp] theorem randomByte_fb (s : State) : (s.randomByte.2).fb = s.fb := by
  unfold State.randomByte
  split <;> rfl
@[simp] theorem randomByte_wp (s : State) : (s.randomByte.2).wp = s.wp := by
  unfold State.randomByte
  split <;> rfl
@[simp] theorem randomByte_fault (s : State) : (s.randomByte.2).fault = s.fault := by
  unfold State.randomByte
  split <;> rfl
@[simp] theorem randomByte_params (s : State) : (s.randomByte.2).params = s.params := by
  unfold State.randomByte
  split <;> rfl
@[simp] theorem randomByte_schedule (s : State) : (s.randomByte.2).schedule = s.schedule := by
  unfold State.randomByte
  split <;> rfl
@[simp] theorem randomByte_hostAnswer (s : State) : (s.randomByte.2).hostAnswer = s.hostAnswer := by
  unfold State.randomByte
  split <;> rfl
@[simp] theorem randomByte_getV (s : State) (r : RegIdx) : (s.randomByte.2).getV r = s.getV r := by
  unfold State.randomByte
  split <;> rfl

/-! ### isPressed -/

@[simp] theorem isPressed_v (s : State) (k : Key) : ((s.isPressed k).2).v = s.v := by
  unfold State.isPressed
  split <;> rfl
@[simp] theorem isPressed_i (s : State) (k : Key) : ((s.isPressed k).2).i = s.i := by
  unfold State.isPressed
  split <;> rfl
@[simp] theorem isPressed_pc (s : State) (k : Key) : ((s.isPressed k).2).pc = s.pc := by
  unfold State.isPressed
  split <;> rfl
@[simp] theorem isPressed_sp (s : State) (k : Key) : ((s.isPressed k).2).sp = s.sp := by
  unfold State.isPressed
  split <;> rfl
@[simp] theorem isPressed_stack (s : State) (k : Key) : ((s.isPressed k).2).stack = s.stack := by
  unfold State.isPressed
  split <;> rfl
@[simp] theorem isPressed_dt (s : State) (k : Key) : ((s.isPressed k).2).dt = s.dt := by
  unfold State.isPressed
  split <;> rfl
@[simp] theorem isPressed_st (s : State) (k : Key) : ((s.isPressed k).2).st = s.st := by
  unfold State.isPressed
  split <;> rfl
@[simp] theorem isPressed_execState (s : State) (k : Key) : ((s.isPressed k).2).execState = s.execState := by
  unfold State.isPressed
  split <;> rfl
@[simp] theorem isPressed_mem (s : State) (k : Key) : ((s.isPressed k).2).mem = s.mem := by
  unfold State.isPressed
  split <;> rfl
@[simp] theorem isPressed_fb (s : State) (k : Key) : ((s.isPressed k).2).fb = s.fb := by
  unfold State.isPressed
  split <;> rfl
@[simp] theorem isPressed_wp (s : State) (k : Key) : ((s.isPressed k).2).wp = s.wp := by
  unfold State.isPressed
  split <;> rfl
@[simp] theorem isPressed_fault (s : State) (k : Key) : ((s.isPressed k).2).fault = s.fault := by
  unfold State.isPressed
  split <;> rfl
@[simp] theorem isPressed_params (s : State) (k : Key) : ((s.isPressed k).2).params = s.params := by
  unfold State.isPressed
  split <;> rfl
@[simp] theorem isPressed_schedule (s : State) (k : Key) : ((s.isPressed k).2).schedule = s.schedule := by
  unfold State.isPressed
  split <;> rfl
@[simp] theorem isPressed_hostAnswer (s : State) (k : Key) : ((s.isPressed k).2).hostAnswer = s.hostAnswer := by
  unfold State.isPressed
  split <;> rfl
@[simp] theorem isPressed_getV (s : State) (k : Key) (r : RegIdx) : ((s.isPressed k).2).getV r = s.getV r := by
  unfold State.isPressed
  split <;> rfl

/-! ### takeKey -/

@[simp] theorem takeKey_v (s : State) : (s.takeKey.2).v = s.v := by
  unfold State.takeKey
  split <;> rfl
@[simp] theorem takeKey_i (s : State) : (s.takeKey.2).i = s.i := by
  unfold State.takeKey
  split <;> rfl
@[simp] theorem takeKey_pc (s : State) : (s.takeKey.2).pc = s.pc := by
  unfold State.takeKey
  split <;> rfl
@[simp] theorem takeKey_sp (s : State) : (s.takeKey.2).sp = s.sp := by
  unfold State.takeKey
  split <;> rfl
@[simp] theorem takeKey_stack (s : State) : (s.takeKey.2).stack = s.stack := by
  unfold State.takeKey
  split <;> rfl
@[simp] theorem takeKey_dt (s : State) : (s.takeKey.2).dt = s.dt := by
  unfold State.takeKey
  split <;> rfl
@[simp] theorem takeKey_st (s : State) : (s.takeKey.2).st = s.st := by
  unfold State.takeKey
  split <;> rfl
@[simp] theorem takeKey_execState (s : State) : (s.takeKey.2).execState = s.execState := by
  unfold State.takeKey
  split <;> rfl
@[simp] theorem takeKey_mem (s : State) : (s.takeKey.2).mem = s.mem := by
  unfold State.takeKey
  split <;> rfl
@[simp] theorem takeKey_fb (s : State) : (s.takeKey.2).fb = s.fb := by
  unfold State.takeKey
  split <;> rfl
@[simp] theorem takeKey_wp (s : State) : (s.takeKey.2).wp = s.wp := by
  unfold State.takeKey
  split <;> rfl
@[simp] theorem takeKey_fault (s : State) : (s.takeKey.2).fault = s.fault := by
  unfold State.takeKey
  split <;> rfl
@[simp] theorem takeKey_params (s : State) : (s.takeKey.2).params = s.params := by
  unfold State.takeKey
  split <;> rfl
@[simp] theorem takeKey_schedule (s : State) : (s.takeKey.2).schedule = s.schedule := by
  unfold State.takeKey
  split <;> rfl
@[simp] theorem takeKey_hostAnswer (s : State) : (s.takeKey.2).hostAnswer = s.hostAnswer := by
  unfold State.takeKey
  split <;> rfl
@[simp] theorem takeKey_getV (s : State) (r : RegIdx) : (s.takeKey.2).getV r = s.getV r := by
  unfold State.takeKey
  split <;> rfl

/-! ### machineReset -/

@[simp] theorem machineReset_v (s : State) : (s.machineReset).v = Vector.replicate 16 0 := rfl
@[simp] theorem machineReset_i (s : State) : (s.machineReset).i = 0 := rfl
@[simp] theorem machineReset_pc (s : State) : (s.machineReset).pc = 0x200 := rfl
@[simp] theorem machineReset_sp (s : State) : (s.machineReset).sp = 0 := rfl
@[simp] theorem machineReset_stack (s : State) : (s.machineReset).stack = Vector.replicate 16 0 := rfl
@[simp] theorem machineReset_dt (s : State) : (s.machineReset).dt = 0 := rfl
@[simp] theorem machineReset_st (s : State) : (s.machineReset).st = 0 := rfl
@[simp] theorem machineReset_execState (s : State) : (s.machineReset).execState = .running := rfl
@[simp] theorem machineReset_mem (s : State) : (s.machineReset).mem = s.mem.reset := rfl
@[simp] theorem machineReset_fb (s : State) : (s.machineReset).fb = s.fb.clear := rfl
@[simp] theorem machineReset_wp (s : State) : (s.machineReset).wp = s.wp := rfl
@[simp] theorem machineReset_fault (s : State) : (s.machineReset).fault = none := rfl
@[simp] theorem machineReset_params (s : State) : (s.machineReset).params = s.params := rfl
@[simp] theorem machineReset_oracle (s : State) : (s.machineReset).oracle = s.oracle := rfl
@[simp] theorem machineReset_schedule (s : State) : (s.machineReset).schedule = s.schedule := rfl
@[simp] theorem machineReset_hostAnswer (s : State) : (s.machineReset).hostAnswer = s.hostAnswer := rfl

/-! ### answer -/

@[simp] theorem answer_v (s : State) (a : HostAnswer) : (s.answer a).v = s.v := rfl
@[simp] theorem answer_i (s : State) (a : HostAnswer) : (s.answer a).i = s.i := rfl
@[simp] theorem answer_pc (s : State) (a : HostAnswer) : (s.answer a).pc = s.pc := rfl
@[simp] theorem answer_sp (s : State) (a : HostAnswer) : (s.answer a).sp = s.sp := rfl
@[simp] theorem answer_stack (s : State) (a : HostAnswer) : (s.answer a).stack = s.stack := rfl
@[simp] theorem answer_dt (s : State) (a : HostAnswer) : (s.answer a).dt = s.dt := rfl
@[simp] theorem answer_st (s : State) (a : HostAnswer) : (s.answer a).st = s.st := rfl
@[simp] theorem answer_execState (s : State) (a : HostAnswer) : (s.answer a).execState = s.execState := rfl
@[simp] theorem answer_mem (s : State) (a : HostAnswer) : (s.answer a).mem = s.mem := rfl
@[simp] theorem answer_fb (s : State) (a : HostAnswer) : (s.answer a).fb = s.fb := rfl
@[simp] theorem answer_wp (s : State) (a : HostAnswer) : (s.answer a).wp = s.wp := rfl
@[simp] theorem answer_fault (s : State) (a : HostAnswer) : (s.answer a).fault = s.fault := rfl
@[simp] theorem answer_params (s : State) (a : HostAnswer) : (s.answer a).params = s.params := rfl
@[simp] theorem answer_oracle (s : State) (a : HostAnswer) : (s.answer a).oracle = s.oracle := rfl
@[simp] theorem answer_schedule (s : State) (a : HostAnswer) : (s.answer a).schedule = s.schedule := rfl
@[simp] theorem answer_hostAnswer (s : State) (a : HostAnswer) : (s.answer a).hostAnswer = some a := rfl
@[simp] theorem answer_getV (s : State) (a : HostAnswer) (r : RegIdx) : (s.answer a).getV r = s.getV r := rfl

/-! ### Registers -/

@[simp] theorem setV_getV (s : State) (x r : RegIdx) (b : Byte) :
    (s.setV x b).getV r = if r = x then b else s.getV r := by
  simp only [State.getV, State.setV, Fin.getElem_fin, Vector.getElem_set]
  by_cases h : r = x
  · simp [h]
  · rw [if_neg h, if_neg (fun e => h (Fin.ext e.symm))]

@[simp] theorem setRegistersUpTo_getV (s : State) (x r : RegIdx) (l : List Byte) :
    (s.setRegistersUpTo x l).getV r = if r ≤ x then l.getD r.val 0 else s.getV r := by
  simp [State.getV, State.setRegistersUpTo]

/-- Result then flag: VF holds the flag whatever the destination, and V[x] the result unless x is VF. -/
@[simp] theorem setResultThenFlag_getV (s : State) (x r : RegIdx) (a f : Byte) :
    (s.setResultThenFlag x a f).getV r = if r = VF then f else if r = x then a else s.getV r := by
  simp [State.setResultThenFlag]

/-- A shift whose destination is not VF writes the same under both values of VF_DEST_POLICY. -/
theorem setShift_getV_of_ne_VF (s : State) (x r : RegIdx) (f g : Byte → Byte) (h : x ≠ VF) :
    (s.setShift x f g).getV r = if r = VF then f (s.getV x) else if r = x then g (s.getV x) else s.getV r := by
  unfold State.setShift
  split
  · by_cases hr : r = x
    · subst hr; simp [h]
    · simp [hr, h]
  · simp

/-- A shift of VF itself: Sequential shifts the flag just written, FlagLast leaves the flag (R165). -/
theorem setShift_getV_VF (s : State) (r : RegIdx) (f g : Byte → Byte) :
    (s.setShift VF f g).getV r =
      if r = VF then (if s.params.vfDestPolicy = .sequential then g (f (s.getV VF)) else f (s.getV VF))
      else s.getV r := by
  unfold State.setShift
  split <;> rename_i h <;> by_cases hr : r = VF <;> simp [hr, h]

end Sys2Proof.Machine
end

