-- ==== Sys2Proof/Laws/Codec.lean ====
section
/-! SUPPORT. The laws of the fields, of the encoder's formats (30_encoding.md R84) and of the two bytes of a word. -/

namespace Sys2Proof

theorem toNat_append {m n : Nat} (a : BitVec m) (b : BitVec n) : (a ++ b).toNat = a.toNat * 2 ^ n + b.toNat := by
  rw [BitVec.toNat_append, ← Nat.shiftLeft_add_eq_or_of_lt b.isLt, Nat.shiftLeft_eq]

/-! ## Fields as arithmetic on the opcode's value -/

theorem fieldHi_toNat (op : Word) : (fieldHi op).toNat = op.toNat / 4096 % 16 := by
  simp [fieldHi, BitVec.extractLsb'_toNat, Nat.shiftRight_eq_div_pow]

theorem fieldNnn_toNat (op : Word) : (fieldNnn op).toNat = op.toNat % 4096 := by
  simp [fieldNnn, BitVec.extractLsb'_toNat]

theorem fieldX_val (op : Word) : (fieldX op).val = op.toNat / 256 % 16 := by
  simp [fieldX, Nat.shiftRight_eq_div_pow]

theorem fieldY_val (op : Word) : (fieldY op).val = op.toNat / 16 % 16 := by
  simp [fieldY, Nat.shiftRight_eq_div_pow]

theorem fieldKk_toNat (op : Word) : (fieldKk op).toNat = op.toNat % 256 := by
  simp [fieldKk, BitVec.extractLsb'_toNat]

theorem fieldN_toNat (op : Word) : (fieldN op).toNat = op.toNat % 16 := by
  simp [fieldN, BitVec.extractLsb'_toNat]

/-! ## Formats as arithmetic -/

theorem encodeAddr_toNat (h : BitVec 4) (nnn : Addr12) : (encodeAddr h nnn).toNat = h.toNat * 4096 + nnn.toNat := by
  simp only [encodeAddr, toNat_append]; rfl

theorem encodeXkk_toNat (h : BitVec 4) (x : RegIdx) (kk : Byte) :
    (encodeXkk h x kk).toNat = h.toNat * 4096 + x.val * 256 + kk.toNat := by
  simp only [encodeXkk, toNat_append, BitVec.toNat_ofFin]; omega

theorem encodeXyn_toNat (h : BitVec 4) (x y : RegIdx) (n : Nibble) :
    (encodeXyn h x y n).toNat = h.toNat * 4096 + x.val * 256 + y.val * 16 + n.toNat := by
  simp only [encodeXyn, toNat_append, BitVec.toNat_ofFin]; omega

/-! ## The fields of a format -/

@[simp] theorem fieldHi_encodeAddr (h : BitVec 4) (nnn : Addr12) : fieldHi (encodeAddr h nnn) = h := by
  apply BitVec.eq_of_toNat_eq
  have := h.isLt
  have := nnn.isLt
  rw [fieldHi_toNat, encodeAddr_toNat]; omega

@[simp] theorem fieldNnn_encodeAddr (h : BitVec 4) (nnn : Addr12) : fieldNnn (encodeAddr h nnn) = nnn := by
  apply BitVec.eq_of_toNat_eq
  have := nnn.isLt
  rw [fieldNnn_toNat, encodeAddr_toNat]; omega

@[simp] theorem fieldHi_encodeXkk (h : BitVec 4) (x : RegIdx) (kk : Byte) : fieldHi (encodeXkk h x kk) = h := by
  apply BitVec.eq_of_toNat_eq
  have := h.isLt
  have := x.isLt
  have := kk.isLt
  rw [fieldHi_toNat, encodeXkk_toNat]; omega

@[simp] theorem fieldX_encodeXkk (h : BitVec 4) (x : RegIdx) (kk : Byte) : fieldX (encodeXkk h x kk) = x := by
  apply Fin.ext
  have := x.isLt
  have := kk.isLt
  rw [fieldX_val, encodeXkk_toNat]; omega

@[simp] theorem fieldKk_encodeXkk (h : BitVec 4) (x : RegIdx) (kk : Byte) : fieldKk (encodeXkk h x kk) = kk := by
  apply BitVec.eq_of_toNat_eq
  have := kk.isLt
  rw [fieldKk_toNat, encodeXkk_toNat]; omega

@[simp] theorem fieldHi_encodeXyn (h : BitVec 4) (x y : RegIdx) (n : Nibble) : fieldHi (encodeXyn h x y n) = h := by
  apply BitVec.eq_of_toNat_eq
  have := h.isLt
  have := x.isLt
  have := y.isLt
  have := n.isLt
  rw [fieldHi_toNat, encodeXyn_toNat]; omega

@[simp] theorem fieldX_encodeXyn (h : BitVec 4) (x y : RegIdx) (n : Nibble) : fieldX (encodeXyn h x y n) = x := by
  apply Fin.ext
  have := x.isLt
  have := y.isLt
  have := n.isLt
  rw [fieldX_val, encodeXyn_toNat]; omega

@[simp] theorem fieldY_encodeXyn (h : BitVec 4) (x y : RegIdx) (n : Nibble) : fieldY (encodeXyn h x y n) = y := by
  apply Fin.ext
  have := y.isLt
  have := n.isLt
  rw [fieldY_val, encodeXyn_toNat]; omega

@[simp] theorem fieldN_encodeXyn (h : BitVec 4) (x y : RegIdx) (n : Nibble) : fieldN (encodeXyn h x y n) = n := by
  apply BitVec.eq_of_toNat_eq
  have := n.isLt
  rw [fieldN_toNat, encodeXyn_toNat]; omega

/-! ## Masks of the opcode map as arithmetic -/

theorem and_F000_toNat (op : Word) : (op &&& 0xF000).toNat = op.toNat / 4096 * 4096 := by
  have h : (op &&& 0xF000 : Word) = (op >>> 12) <<< 12 := by
    ext i hi; interval_cases i <;> simp
  rw [h, BitVec.toNat_shiftLeft, BitVec.toNat_ushiftRight, Nat.shiftRight_eq_div_pow, Nat.shiftLeft_eq]
  have := op.isLt
  omega

theorem and_00FF_toNat (op : Word) : (op &&& 0x00FF).toNat = op.toNat % 256 := by
  have h : (op &&& 0x00FF : Word) = (op <<< 8) >>> 8 := by
    ext i hi; interval_cases i <;> simp
  rw [h, BitVec.toNat_ushiftRight, BitVec.toNat_shiftLeft, Nat.shiftRight_eq_div_pow, Nat.shiftLeft_eq]
  omega

theorem and_000F_toNat (op : Word) : (op &&& 0x000F).toNat = op.toNat % 16 := by
  have h : (op &&& 0x000F : Word) = (op <<< 12) >>> 12 := by
    ext i hi; interval_cases i <;> simp
  rw [h, BitVec.toNat_ushiftRight, BitVec.toNat_shiftLeft, Nat.shiftRight_eq_div_pow, Nat.shiftLeft_eq]
  omega

/-- A mask made of two parts without a common bit. -/
theorem and_split_toNat (op a b : Word) (h : a &&& b = 0) :
    (op &&& (a ||| b)).toNat = (op &&& a).toNat + (op &&& b).toNat := by
  have h1 : op &&& (a ||| b) = (op &&& a) ||| (op &&& b) := by
    ext i hi; simp [Bool.and_or_distrib_left]
  have h2 : (op &&& a) &&& (op &&& b) = 0 := by
    ext i hi
    have := congrArg (fun w : Word => w[i]) h
    simp only [BitVec.getElem_and, BitVec.ofNat_eq_ofNat, BitVec.getElem_zero] at this ⊢
    cases op[i] <;> simp_all
  rw [h1, ← BitVec.add_eq_or_of_and_eq_zero _ _ h2, BitVec.toNat_add_of_and_eq_zero h2]

theorem and_F0FF_toNat (op : Word) : (op &&& 0xF0FF).toNat = op.toNat / 4096 * 4096 + op.toNat % 256 := by
  have := and_split_toNat op 0xF000 0x00FF (by decide)
  rw [and_F000_toNat, and_00FF_toNat] at this
  exact this

theorem and_F00F_toNat (op : Word) : (op &&& 0xF00F).toNat = op.toNat / 4096 * 4096 + op.toNat % 16 := by
  have := and_split_toNat op 0xF000 0x000F (by decide)
  rw [and_F000_toNat, and_000F_toNat] at this
  exact this

/-! ## The two bytes of a word (20_memory.md R52, R57, R58) -/

theorem wordOfBytes_toNat (hi lo : Byte) : (wordOfBytes hi lo).toNat = hi.toNat * 256 + lo.toNat := by
  simp only [wordOfBytes, toNat_append]; rfl

theorem highByte_toNat (w : Word) : (highByte w).toNat = w.toNat / 256 := by
  have := w.isLt
  simp only [highByte, BitVec.extractLsb'_toNat, Nat.shiftRight_eq_div_pow]
  omega

theorem lowByte_toNat (w : Word) : (lowByte w).toNat = w.toNat % 256 := by
  simp [lowByte, BitVec.extractLsb'_toNat]

@[simp] theorem wordOfBytes_split (w : Word) : wordOfBytes (highByte w) (lowByte w) = w := by
  apply BitVec.eq_of_toNat_eq
  rw [wordOfBytes_toNat, highByte_toNat, lowByte_toNat]
  omega

@[simp] theorem highByte_wordOfBytes (hi lo : Byte) : highByte (wordOfBytes hi lo) = hi := by
  apply BitVec.eq_of_toNat_eq
  have := lo.isLt
  rw [highByte_toNat, wordOfBytes_toNat]
  omega

@[simp] theorem lowByte_wordOfBytes (hi lo : Byte) : lowByte (wordOfBytes hi lo) = lo := by
  apply BitVec.eq_of_toNat_eq
  have := lo.isLt
  rw [lowByte_toNat, wordOfBytes_toNat]
  omega

end Sys2Proof
end

