-- ==== Sys2Proof/Laws/Memory.lean ====
section
/-! SUPPORT. The laws of memory: a read after a write, and that every memory operation keeps the canonical form and the FONT table. -/

namespace Sys2Proof.Machine

/-! ## Listed cells -/

theorem lookupCell_insertCell (l : List Host.Cell) (a c : Nat) (b : Byte) :
    lookupCell (insertCell l a b) c = if c = a then some b else lookupCell l c := by
  induction l with
  | nil => simp [insertCell, lookupCell, eq_comm]
  | cons d rest ih =>
    obtain ⟨k, e⟩ := d
    unfold insertCell
    split
    · simp [lookupCell, eq_comm]
    · split
      · subst_vars
        by_cases h : c = k <;> simp [lookupCell, h, eq_comm]
      · simp only [lookupCell, ih]
        grind

theorem lookupCell_filter_ne (l : List Host.Cell) (a c : Nat) :
    lookupCell (l.filter (fun d => d.1 != a)) c = if c = a then none else lookupCell l c := by
  induction l with
  | nil => simp [lookupCell]
  | cons d rest ih =>
    obtain ⟨k, e⟩ := d
    by_cases hk : k = a
    · subst hk
      simp only [List.filter_cons, bne_self_eq_false, Bool.false_eq_true, if_false, ih, lookupCell]
      grind
    · have hk' : (k != a) = true := by simpa using hk
      simp only [List.filter_cons, hk', if_true, lookupCell, ih]
      grind

/-! ## Reads -/

@[simp] theorem poke_font (m : Memory) (a : Nat) (b : Byte) : (m.poke a b).font = m.font := by
  unfold Memory.poke
  split <;> rfl

@[simp] theorem poke_blank (m : Memory) (a c : Nat) (b : Byte) : (m.poke a b).blank c = m.blank c := by
  simp [Memory.blank]

/-- A read after a write: the byte written at that address, the old byte everywhere else. -/
@[simp] theorem poke_get (m : Memory) (a c : Nat) (b : Byte) :
    (m.poke a b).get c = if c = a then b else m.get c := by
  simp only [Memory.get, poke_blank]
  unfold Memory.poke
  split
  · rename_i h
    simp only [lookupCell_filter_ne]
    split
    · subst_vars; simp
    · rfl
  · simp only [lookupCell_insertCell]
    split <;> simp

@[simp] theorem storeBytes_font (m : Memory) (a : Nat) (l : List Byte) : (m.storeBytes a l).font = m.font := by
  induction l generalizing m a with
  | nil => rfl
  | cons b rest ih => simp [Memory.storeBytes, ih]

@[simp] theorem storeBytes_blank (m : Memory) (a c : Nat) (l : List Byte) :
    (m.storeBytes a l).blank c = m.blank c := by
  simp [Memory.blank]

/-- A read after a store of consecutive bytes. -/
theorem storeBytes_get (m : Memory) (a c : Nat) (l : List Byte) :
    (m.storeBytes a l).get c = if a ≤ c ∧ c < a + l.length then l.getD (c - a) 0 else m.get c := by
  induction l generalizing m a with
  | nil =>
    have h : ¬ (a ≤ c ∧ c < a + ([] : List Byte).length) := by simp
    rw [if_neg h]; rfl
  | cons b rest ih =>
    simp only [Memory.storeBytes, ih, poke_get, List.length_cons]
    by_cases h0 : c = a
    · subst h0; simp
    · by_cases h1 : a + 1 ≤ c ∧ c < a + 1 + rest.length
      · have h2 : a ≤ c ∧ c < a + (rest.length + 1) := by omega
        have h3 : c - a = (c - (a + 1)) + 1 := by omega
        rw [if_pos h1, if_pos h2, h3, List.getD_cons_succ]
      · have h2 : ¬ (a ≤ c ∧ c < a + (rest.length + 1)) := by omega
        rw [if_neg h1, if_neg h2, if_neg h0]

theorem storeBytes_get_outside (m : Memory) (a c : Nat) (l : List Byte) (h : ¬ (a ≤ c ∧ c < a + l.length)) :
    (m.storeBytes a l).get c = m.get c := by
  rw [storeBytes_get, if_neg h]

@[simp] theorem reset_font (m : Memory) : m.reset.font = m.font := rfl

@[simp] theorem reset_get (m : Memory) (a : Nat) : m.reset.get a = m.blank a := rfl

@[simp] theorem bytesFrom_length (m : Memory) (a n : Nat) : (m.bytesFrom a n).length = n := by
  simp [Memory.bytesFrom]

theorem bytesFrom_getD (m : Memory) (a n k : Nat) (h : k < n) : (m.bytesFrom a n).getD k 0 = m.get (a + k) := by
  simp [Memory.bytesFrom, List.getD_eq_getElem?_getD, List.getElem?_map, List.getElem?_range h]

/-! ## The canonical form -/

theorem mem_insertCell {l : List Host.Cell} {a : Nat} {b : Byte} {c : Host.Cell} (h : c ∈ insertCell l a b) :
    c = (a, b) ∨ c ∈ l := by
  induction l with
  | nil => simpa [insertCell] using h
  | cons d rest ih =>
    unfold insertCell at h
    split at h
    · simpa using h
    · split at h
      · simp only [List.mem_cons] at h ⊢
        tauto
      · simp only [List.mem_cons] at h ⊢
        rcases h with h | h
        · exact .inr (.inl h)
        · rcases ih h with h | h
          · exact .inl h
          · exact .inr (.inr h)

theorem insertCell_pairwise {l : List Host.Cell} {a : Nat} {b : Byte}
    (h : l.Pairwise (fun c d => c.1 < d.1)) : (insertCell l a b).Pairwise (fun c d => c.1 < d.1) := by
  induction l with
  | nil => simp [insertCell]
  | cons d rest ih =>
    obtain ⟨k, e⟩ := d
    have hd := List.pairwise_cons.mp h
    unfold insertCell
    split
    · rename_i hlt
      refine List.pairwise_cons.mpr ⟨fun c hc => ?_, h⟩
      rcases List.mem_cons.mp hc with rfl | hc
      · exact hlt
      · exact lt_trans hlt (hd.1 c hc)
    · split
      · subst_vars
        exact List.pairwise_cons.mpr ⟨fun c hc => hd.1 c hc, hd.2⟩
      · refine List.pairwise_cons.mpr ⟨fun c hc => ?_, ih hd.2⟩
        rcases mem_insertCell hc with rfl | hc
        · simp only; omega
        · exact hd.1 c hc

theorem poke_wf {m : Memory} {a : Nat} {b : Byte} (h : m.wf) (ha : a < memSize) : (m.poke a b).wf := by
  obtain ⟨h1, h2⟩ := h
  simp only [Memory.wf, poke_blank]
  unfold Memory.poke
  split
  · exact ⟨h1.filter _, fun c hc => h2 c (List.mem_filter.mp hc).1⟩
  · rename_i hb
    refine ⟨insertCell_pairwise h1, fun c hc => ?_⟩
    rcases mem_insertCell hc with rfl | hc
    · exact ⟨ha, hb⟩
    · exact h2 c hc

theorem storeBytes_wf {m : Memory} {a : Nat} {l : List Byte} (h : m.wf) (ha : a + l.length ≤ memSize) :
    (m.storeBytes a l).wf := by
  induction l generalizing m a with
  | nil => exact h
  | cons b rest ih =>
    simp only [List.length_cons] at ha
    exact ih (poke_wf h (by omega)) (by omega)

theorem reset_wf (m : Memory) : m.reset.wf := by
  simp [Memory.wf, Memory.reset]

/-! ## The controller's operations: everything each can do -/

theorem writeByte_ok {wp : Bool} {m m' : Memory} {a : Int} {b : Byte} (h : m.writeByte wp a b = .ok m') :
    0 ≤ a ∧ a.toNat < memSize ∧ ¬ (wp = true ∧ a ≤ protectedTop) ∧ m' = m.poke a.toNat b := by
  unfold Memory.writeByte at h
  split at h
  · split at h
    · cases h
    · cases h
      exact ⟨by omega, by omega, by assumption, rfl⟩
  · cases h

theorem writeWord_ok {wp : Bool} {m m' : Memory} {a : Int} {w : Word} (h : m.writeWord wp a w = .ok m') :
    0 ≤ a ∧ a.toNat + 1 < memSize ∧ ¬ (wp = true ∧ a ≤ protectedTop) ∧
      m' = m.storeBytes a.toNat [highByte w, lowByte w] := by
  unfold Memory.writeWord at h
  split at h
  · split at h
    · cases h
    · cases h
      exact ⟨by omega, by omega, by assumption, rfl⟩
  · cases h

theorem loadRom_ok {m m' : Memory} {l : List Byte} (h : m.loadRom l = .ok m') :
    l.length ≤ maxRom ∧ m' = m.storeBytes progStart l := by
  unfold Memory.loadRom at h
  split at h
  · cases h
  · cases h
    exact ⟨by omega, rfl⟩

theorem writeByte_wf {wp : Bool} {m m' : Memory} {a : Int} {b : Byte} (hm : m.wf) (h : m.writeByte wp a b = .ok m') :
    m'.wf := by
  obtain ⟨_, h2, _, rfl⟩ := writeByte_ok h
  exact poke_wf hm h2

theorem writeWord_wf {wp : Bool} {m m' : Memory} {a : Int} {w : Word} (hm : m.wf) (h : m.writeWord wp a w = .ok m') :
    m'.wf := by
  obtain ⟨_, h2, _, rfl⟩ := writeWord_ok h
  exact storeBytes_wf hm (by simp only [List.length_cons, List.length_nil]; omega)

theorem loadRom_wf {m m' : Memory} {l : List Byte} (hm : m.wf) (h : m.loadRom l = .ok m') : m'.wf := by
  obtain ⟨h1, rfl⟩ := loadRom_ok h
  exact storeBytes_wf hm (by simp only [progStart, maxRom, memSize] at *; omega)

end Sys2Proof.Machine
end

