-- ==== Sys2Proof/Laws/Ops.lean ====
section
/-! SUPPORT. One lemma for each shared operation: everything it can do. Callers cite it and do not unfold the operation. -/

namespace Sys2Proof.Machine

/-! ## Failing and completing -/

/-- An instruction that may fail always ends in a next state: its result, or the Fault record on top of the old state. -/
theorem complete_next {s t : State} {r : Except CoreError State} (h : s.complete r = .next t) :
    r = .ok t ∨ ∃ e, r = .error e ∧ t = s.fail e := by
  cases r with
  | ok u => exact .inl (by simpa [State.complete] using h)
  | error e => exact .inr ⟨e, rfl, by simpa [State.complete] using h.symm⟩

theorem complete_ok (s t : State) : s.complete (.ok t) = .next t := rfl

theorem complete_error (s : State) (e : CoreError) : s.complete (.error e) = .next (s.fail e) := rfl

theorem complete_isNext (s : State) (r : Except CoreError State) : ∃ t, s.complete r = .next t := by
  cases r <;> exact ⟨_, rfl⟩

/-! ## The access check (43_index_memory.md R183) -/

theorem firstBadAddress_none {wp write : Bool} {a n : Nat} :
    firstBadAddress wp write a n = none ↔
      ∀ k < n, a + k < memSize ∧ ¬ (write = true ∧ wp = true ∧ a + k ≤ protectedTop) := by
  induction n generalizing a with
  | zero => simp [firstBadAddress]
  | succ n ih =>
    unfold firstBadAddress
    constructor
    · intro h k hk
      split at h
      · cases h
      · split at h
        · cases h
        · rename_i h1 h2
          rcases Nat.eq_zero_or_pos k with rfl | hp
          · exact ⟨by omega, h2⟩
          · have := ih.mp h (k - 1) (by omega)
            have e : a + 1 + (k - 1) = a + k := by omega
            rwa [e] at this
    · intro h
      have h0 := h 0 (by omega)
      simp only [Nat.add_zero] at h0
      rw [if_neg (by omega), if_neg h0.2]
      refine ih.mpr fun k hk => ?_
      have := h (k + 1) (by omega)
      have e : a + 1 + k = a + (k + 1) := by omega
      rwa [e]

/-- The failure reported is that of the lowest failing address. -/
theorem firstBadAddress_some {wp write : Bool} {a n : Nat} {e : CoreError} (h : firstBadAddress wp write a n = some e) :
    ∃ k < n, firstBadAddress wp write a k = none ∧
      (memSize ≤ a + k ∧ e = .outOfBounds (a + k : Nat) ∨
        a + k ≤ protectedTop ∧ write = true ∧ wp = true ∧ e = .writeProtected (a + k : Nat)) := by
  induction n generalizing a with
  | zero => cases h
  | succ n ih =>
    unfold firstBadAddress at h
    split at h
    · cases h
      exact ⟨0, by omega, rfl, .inl ⟨by omega, rfl⟩⟩
    · split at h
      · rename_i hw
        cases h
        exact ⟨0, by omega, rfl, .inr ⟨hw.2.2, hw.1, hw.2.1, rfl⟩⟩
      · obtain ⟨k, hk, hn, he⟩ := ih h
        have e1 : a + 1 + k = a + (k + 1) := by omega
        rw [e1] at he
        refine ⟨k + 1, by omega, ?_, he⟩
        unfold firstBadAddress
        rw [if_neg (by omega), if_neg (by assumption)]
        exact hn

/-- A checked write at I: every address is good and the bytes lie there, or nothing is written. -/
theorem writeAtI_ok {s t : State} {l : List Byte} (h : s.writeAtI l = .ok t) :
    s.checkAccess l.length true = none ∧ t = { s with mem := s.mem.storeBytes (s.ea 0) l } := by
  unfold State.writeAtI at h
  split at h
  · cases h
  · cases h
    exact ⟨by assumption, rfl⟩

theorem writeAtI_error {s : State} {l : List Byte} {e : CoreError} (h : s.writeAtI l = .error e) :
    s.checkAccess l.length true = some e := by
  unfold State.writeAtI at h
  split at h
  · cases h; assumption
  · cases h

theorem readAtI_ok {s : State} {n : Nat} {l : List Byte} (h : s.readAtI n = .ok l) :
    s.checkAccess n false = none ∧ l = s.bytesAtI n := by
  unfold State.readAtI at h
  split at h
  · cases h
  · cases h
    exact ⟨by assumption, rfl⟩

theorem readAtI_error {s : State} {n : Nat} {e : CoreError} (h : s.readAtI n = .error e) :
    s.checkAccess n false = some e := by
  unfold State.readAtI at h
  split at h
  · cases h; assumption
  · cases h

/-- A write that passes its check stays inside Mem. -/
theorem checkAccess_bound {s : State} {n : Nat} {w : Bool} (h : s.checkAccess n w = none) (hn : 0 < n) :
    s.ea 0 + n ≤ memSize := by
  have := (firstBadAddress_none.mp h (n - 1) (by omega)).1
  omega

theorem registersUpTo_length (s : State) (x : RegIdx) : (s.registersUpTo x).length = x.val + 1 := by
  simp [State.registersUpTo]

theorem registersUpTo_getD (s : State) (x k : RegIdx) (h : k ≤ x) : (s.registersUpTo x).getD k.val 0 = s.getV k := by
  have hk : k.val < x.val + 1 := by have : k.val ≤ x.val := h; omega
  simp [State.registersUpTo, State.getV, List.getD_eq_getElem?_getD, hk]

/-! ## The call stack (10_state.md R29) -/

theorem push_ok {s t : State} (h : s.push = .ok t) :
    s.sp.val < 16 ∧ t = { s with stack := t.stack, sp := t.sp } ∧ t.sp.val = s.sp.val + 1 ∧
      ∀ k : Fin 16, t.stack[k] = if k.val = s.sp.val then s.pc else s.stack[k] := by
  unfold State.push at h
  split at h
  · cases h
    refine ⟨by assumption, rfl, rfl, fun k => ?_⟩
    simp [Vector.getElem_set, eq_comm]
  · cases h

theorem push_error {s : State} {e : CoreError} (h : s.push = .error e) : s.sp.val = 16 ∧ e = .stackOverflow := by
  unfold State.push at h
  split at h
  · cases h
  · cases h
    exact ⟨by omega, rfl⟩

theorem pop_ok {s t : State} (h : s.pop = .ok t) :
    t = { s with sp := t.sp, pc := t.pc } ∧ t.sp.val + 1 = s.sp.val ∧
      ∀ k : Fin 16, k.val + 1 = s.sp.val → t.pc = s.stack[k] := by
  unfold State.pop at h
  split at h
  · cases h
  · cases h
    refine ⟨rfl, ?_, fun k hk => ?_⟩
    · simp only; omega
    · simp [← hk]

theorem pop_error {s : State} {e : CoreError} (h : s.pop = .error e) : s.sp.val = 0 ∧ e = .stackUnderflow := by
  unfold State.pop at h
  split at h
  · cases h
    exact ⟨by assumption, rfl⟩
  · cases h

/-! ## The font address (20_memory.md R62) -/

theorem fontGlyphAddress_ok {d : Int} {w : Word} (h : fontGlyphAddress d = .ok w) :
    0 ≤ d ∧ d ≤ 15 ∧ w = BitVec.ofNat 16 (0x050 + d.toNat * 5) := by
  unfold fontGlyphAddress at h
  split at h
  · cases h
    exact ⟨by omega, by omega, rfl⟩
  · cases h

theorem fontGlyphAddress_error {d : Int} {e : CoreError} (h : fontGlyphAddress d = .error e) :
    ¬ (0 ≤ d ∧ d ≤ 15) ∧ e = .invalidFontDigit d := by
  unfold fontGlyphAddress at h
  split at h
  · cases h
  · cases h
    exact ⟨by assumption, rfl⟩

/-! ## The framebuffer and the sprite engine -/

@[simp] theorem fb_get_set (fb : FrameBuffer) (x cx : Fin 64) (y cy : Fin 32) (b : Bool) :
    (fb.set x y b).get cx cy = if cx = x ∧ cy = y then b else fb.get cx cy := by
  simp only [FrameBuffer.get, FrameBuffer.set, Fin.getElem_fin, Vector.getElem_set]
  by_cases hy : y.val = cy.val
  · have hy' : cy = y := Fin.ext hy.symm
    subst hy'
    by_cases hx : x.val = cx.val
    · have hx' : cx = x := Fin.ext hx.symm
      subst hx'; simp
    · have hx' : ¬ cx = x := fun e => hx (congrArg Fin.val e).symm
      simp [hx, hx']
  · have hy' : ¬ cy = y := fun e => hy (congrArg Fin.val e).symm
    simp [hy, hy']

@[simp] theorem fb_get_clear (fb : FrameBuffer) (x : Fin 64) (y : Fin 32) : fb.clear.get x y = false := by
  simp [FrameBuffer.get, FrameBuffer.clear]

/-- Two framebuffers with the same cells are equal. -/
theorem fb_ext {a b : FrameBuffer} (h : ∀ x y, a.get x y = b.get x y) : a = b := by
  obtain ⟨ra⟩ := a
  obtain ⟨rb⟩ := b
  have : ra = rb := by
    refine Vector.ext fun i hi => Vector.ext fun j hj => ?_
    exact h ⟨j, hj⟩ ⟨i, hi⟩
  rw [this]

theorem plot_get (acc : FrameBuffer × Bool) (sx cx : Fin 64) (sy cy : Fin 32) :
    (plot acc sx sy).1.get cx cy = if cx = sx ∧ cy = sy then !acc.1.get sx sy else acc.1.get cx cy := by
  simp [plot]

theorem plot_collided (acc : FrameBuffer × Bool) (sx : Fin 64) (sy : Fin 32) :
    (plot acc sx sy).2 = (acc.2 || acc.1.get sx sy) := rfl

theorem drawSprite_ok {fb : FrameBuffer} {x y : Byte} {rows : List Byte} {r : FrameBuffer × Bool}
    (h : drawSprite fb x y rows = .ok r) :
    0 < rows.length ∧ rows.length ≤ 15 ∧ r = drawRows x y 0 rows (fb, false) := by
  unfold drawSprite at h
  split at h
  · cases h
  · split at h
    · cases h
    · cases h
      exact ⟨by omega, by simp only [maxSpriteRows] at *; omega, rfl⟩

theorem drawSprite_error {fb : FrameBuffer} {x y : Byte} {rows : List Byte} {e : CoreError}
    (h : drawSprite fb x y rows = .error e) :
    rows.length = 0 ∧ e = .emptySpriteData ∨ 15 < rows.length ∧ e = .spriteTooTall rows.length := by
  unfold drawSprite at h
  split at h
  · cases h; exact .inl ⟨by assumption, rfl⟩
  · split at h
    · cases h; exact .inr ⟨by assumption, rfl⟩
    · cases h

/-! ## The environment's answers: an injected answer first, then a free value -/

theorem randomByte_injected (s : State) (b : Byte) (rest : List Byte) (h : s.oracle.randomBytes = b :: rest) :
    s.randomByte = (b, { s with oracle := { s.oracle with randomBytes := rest } }) := by
  simp [State.randomByte, h]

theorem randomByte_free (s : State) (h : s.oracle.randomBytes = []) :
    s.randomByte = (Config.randomByte s.oracle.draws, s.countDraw) := by
  simp [State.randomByte, h]

theorem isPressed_injected (s : State) (k : Key) (b : Bool) (rest : List Bool) (h : s.oracle.keyStates = b :: rest) :
    s.isPressed k = (b, { s with oracle := { s.oracle with keyStates := rest } }) := by
  simp [State.isPressed, h]

theorem isPressed_free (s : State) (k : Key) (h : s.oracle.keyStates = []) :
    s.isPressed k = (Config.keyPressed s.oracle.draws k, s.countDraw) := by
  simp [State.isPressed, h]

theorem takeKey_injected (s : State) (k : Option Key) (rest : List (Option Key)) (h : s.oracle.keyPresses = k :: rest) :
    s.takeKey = (k, { s with oracle := { s.oracle with keyPresses := rest } }) := by
  simp [State.takeKey, h]

theorem takeKey_free (s : State) (h : s.oracle.keyPresses = []) :
    s.takeKey = (Config.keyTaken s.oracle.draws, s.countDraw) := by
  simp [State.takeKey, h]

/-! ## Timers -/

theorem tickDown_toNat (t : Byte) : (tickDown t).toNat = t.toNat - 1 := by
  unfold tickDown
  split
  · subst_vars; rfl
  · rename_i h
    have h0 : t.toNat ≠ 0 := fun e => h (BitVec.eq_of_toNat_eq (by simpa using e))
    have h1 : (1 : Byte) ≤ t := by rw [BitVec.le_def]; simp; omega
    rw [BitVec.toNat_sub_of_le h1]; simp

theorem tickDownBy_toNat (n : Nat) (t : Byte) : (tickDownBy n t).toNat = t.toNat - n := by
  unfold tickDownBy
  have := t.isLt
  split
  · subst_vars; simp
  · rw [BitVec.toNat_ofNat, Nat.mod_eq_of_lt (by omega)]

/-! ## The step: everything it can do -/

/-- A step is a cycle with free ticks after it, a cycle the schedule asked for, or one other host call. -/
theorem step_cases (s : State) :
    (s.schedule = [] ∧ step s = withFreeTicks (cycle s)) ∨
    (∃ rest, s.schedule = .executeCycle :: rest ∧ step s = cycle { s with schedule := rest }) ∨
    (∃ call rest, s.schedule = call :: rest ∧ call ≠ .executeCycle ∧
      step s = .next ({ s with schedule := rest }.serve call)) := by
  unfold step
  split
  · exact .inl ⟨by assumption, rfl⟩
  · exact .inr (.inl ⟨_, by assumption, rfl⟩)
  · rename_i call rest hne hs
    exact .inr (.inr ⟨call, rest, hs, hne, rfl⟩)

/-- A cycle stops on a Faulted machine, polls for a key while waiting, fails at the fetch, or runs the opcode at PC. -/
theorem cycle_cases (s : State) :
    (∃ e, s.fault = some e ∧ cycle s = .fault (.machineFaulted e)) ∨
    (∃ r, s.fault = none ∧ s.execState = .waitingForKey r ∧ cycle s = .next (s.pollKey r)) ∨
    (s.fault = none ∧ s.execState = .running ∧ s.fetchable = false ∧ cycle s = .next s.failFetch) ∨
    (s.fault = none ∧ s.execState = .running ∧ s.fetchable = true ∧ cycle s = s.runFetched) := by
  unfold cycle
  split
  · exact .inl ⟨_, by assumption, rfl⟩
  · split
    · exact .inr (.inl ⟨_, by assumption, by assumption, rfl⟩)
    · split
      · exact .inr (.inr (.inr ⟨by assumption, by assumption, by assumption, rfl⟩))
      · rename_i h
        exact .inr (.inr (.inl ⟨by assumption, by assumption, by simpa using h, rfl⟩))

theorem fetchable_iff (s : State) : s.fetchable = true ↔ s.pc.toNat ≤ 0xFFE := by
  simp only [State.fetchable, memSize, Bool.and_eq_true, decide_eq_true_eq]
  omega

/-- The fetch's advance and its fetch address cancel. -/
@[simp] theorem advance_fetchAddress (s : State) : s.advance.fetchAddress = s.pc := by
  simp [State.fetchAddress]

/-- During an instruction the current opcode is the one the fetch read. -/
@[simp] theorem advance_currentOpcode (s : State) : s.advance.currentOpcode = s.fetchOpcode := by
  simp [State.currentOpcode, State.fetchOpcode]

end Sys2Proof.Machine
end

