-- ==== Sys2Proof/Laws/Exec.lean ====
section
/-! SUPPORT. Everything each instruction with a branch can do: its effect under its check, or the failure on top of the old state. The other meanings are one state update. -/

namespace Sys2Proof.Machine

theorem execRet_cases {s t : State} (h : execRet s = .next t) :
    s.pop = .ok t ∨ s.pop = .error .stackUnderflow ∧ t = s.fail .stackUnderflow := by
  rcases complete_next h with hp | ⟨e, he, rfl⟩
  · exact .inl hp
  · obtain ⟨_, rfl⟩ := pop_error he
    exact .inr ⟨he, rfl⟩

theorem execCall_cases {nnn : Addr12} {s t : State} (h : execCall nnn s = .next t) :
    (∃ p, s.push = .ok p ∧ t = p.jumpTo (zextAddr nnn)) ∨
      s.push = .error .stackOverflow ∧ t = s.fail .stackOverflow := by
  unfold execCall at h
  cases hp : s.push with
  | ok p =>
    rw [hp] at h
    injection h with h
    exact .inl ⟨p, rfl, h.symm⟩
  | error e =>
    obtain ⟨_, rfl⟩ := push_error hp
    rw [hp] at h
    injection h with h
    exact .inr ⟨rfl, h.symm⟩

theorem execLoadFont_cases {x : RegIdx} {s t : State} (h : execLoadFont x s = .next t) :
    (∃ w, fontGlyphAddress (s.getV x).toNat = .ok w ∧ t = s.setI w) ∨
      ∃ e, fontGlyphAddress (s.getV x).toNat = .error e ∧ t = s.fail e := by
  unfold execLoadFont at h
  cases hp : fontGlyphAddress (s.getV x).toNat with
  | ok w =>
    rw [hp] at h
    injection h with h
    exact .inl ⟨w, rfl, h.symm⟩
  | error e =>
    rw [hp] at h
    injection h with h
    exact .inr ⟨e, rfl, h.symm⟩

theorem execStoreBcd_cases {x : RegIdx} {s t : State} (h : execStoreBcd x s = .next t) :
    (s.checkAccess 3 true = none ∧ t = { s with mem := s.mem.storeBytes (s.ea 0) (bcdDigits (s.getV x)) }) ∨
      ∃ e, s.checkAccess 3 true = some e ∧ t = s.fail e := by
  rcases complete_next h with hw | ⟨e, he, rfl⟩
  · exact .inl (writeAtI_ok hw)
  · exact .inr ⟨e, writeAtI_error he, rfl⟩

theorem execStoreRegisters_cases {x : RegIdx} {s t : State} (h : execStoreRegisters x s = .next t) :
    (s.checkAccess (x.val + 1) true = none ∧
        t = State.stepIndex { s with mem := s.mem.storeBytes (s.ea 0) (s.registersUpTo x) } x) ∨
      ∃ e, s.checkAccess (x.val + 1) true = some e ∧ t = s.fail e := by
  unfold execStoreRegisters at h
  cases hp : s.writeAtI (s.registersUpTo x) with
  | ok p =>
    rw [hp] at h
    injection h with h
    obtain ⟨h1, rfl⟩ := writeAtI_ok hp
    rw [registersUpTo_length] at h1
    exact .inl ⟨h1, h.symm⟩
  | error e =>
    rw [hp] at h
    injection h with h
    have h1 := writeAtI_error hp
    rw [registersUpTo_length] at h1
    exact .inr ⟨e, h1, h.symm⟩

theorem execLoadRegisters_cases {x : RegIdx} {s t : State} (h : execLoadRegisters x s = .next t) :
    (s.checkAccess (x.val + 1) false = none ∧ t = (s.setRegistersUpTo x (s.bytesAtI (x.val + 1))).stepIndex x) ∨
      ∃ e, s.checkAccess (x.val + 1) false = some e ∧ t = s.fail e := by
  unfold execLoadRegisters at h
  cases hp : s.readAtI (x.val + 1) with
  | ok l =>
    rw [hp] at h
    injection h with h
    obtain ⟨h1, rfl⟩ := readAtI_ok hp
    exact .inl ⟨h1, h.symm⟩
  | error e =>
    rw [hp] at h
    injection h with h
    exact .inr ⟨e, readAtI_error hp, h.symm⟩

theorem execDraw_cases {x y : RegIdx} {n : Nibble} {s t : State} (h : execDraw x y n s = .next t) :
    (∃ r, s.checkAccess n.toNat false = none ∧
        drawSprite s.fb (s.getV x) (s.getV y) (s.bytesAtI n.toNat) = .ok r ∧
        t = State.setV { s with fb := r.1 } VF (flagByte r.2)) ∨
      (∃ e, s.checkAccess n.toNat false = some e ∧ t = s.fail e) ∨
      ∃ e, s.checkAccess n.toNat false = none ∧
        drawSprite s.fb (s.getV x) (s.getV y) (s.bytesAtI n.toNat) = .error e ∧ t = s.fail e := by
  unfold execDraw at h
  cases hp : s.readAtI n.toNat with
  | ok l =>
    obtain ⟨h1, rfl⟩ := readAtI_ok hp
    cases hd : drawSprite s.fb (s.getV x) (s.getV y) (s.bytesAtI n.toNat) with
    | ok r =>
      simp only [hp, hd, bind, Except.bind, pure, Except.pure, complete_ok] at h
      injection h with h
      exact .inl ⟨r, h1, rfl, h.symm⟩
    | error e =>
      simp only [hp, hd, bind, Except.bind, complete_error] at h
      injection h with h
      exact .inr (.inr ⟨e, h1, rfl, h.symm⟩)
  | error e =>
    simp only [hp, bind, Except.bind, complete_error] at h
    injection h with h
    exact .inr (.inl ⟨e, readAtI_error hp, h.symm⟩)

theorem execWaitKey_cases {x : RegIdx} {s t : State} (h : execWaitKey x s = .next t) :
    (∃ k, s.takeKey.1 = some k ∧ t = s.takeKey.2.setV x (keyByte k)) ∨
      s.takeKey.1 = none ∧ t = { s.takeKey.2 with execState := .waitingForKey x } := by
  unfold execWaitKey at h
  injection h with h
  cases hk : s.takeKey.1 with
  | some k => exact .inl ⟨k, rfl, by rw [← h, hk]⟩
  | none => exact .inr ⟨rfl, by rw [← h, hk]⟩

theorem pollKey_cases (s : State) (r : RegIdx) :
    (∃ k, s.takeKey.1 = some k ∧ s.pollKey r = { s.takeKey.2.setV r (keyByte k) with execState := .running }) ∨
      s.takeKey.1 = none ∧ s.pollKey r = s.takeKey.2 := by
  unfold State.pollKey
  cases hk : s.takeKey.1 with
  | some k => exact .inl ⟨k, rfl, rfl⟩
  | none => exact .inr ⟨rfl, rfl⟩

/-- A decoded opcode runs its instruction, an illegal one fails the cycle. -/
theorem runFetched_cases (s : State) :
    (∃ i, decode s.params.zeroFamilyMatch s.fetchOpcode = .ok i ∧ s.runFetched = exec i s.advance) ∨
      ∃ op, decode s.params.zeroFamilyMatch s.fetchOpcode = .error (.unknownInstruction op) ∧
        s.runFetched = .next (s.advance.fail (.unknownInstruction op)) := by
  unfold State.runFetched
  split
  · exact .inl ⟨_, by assumption, rfl⟩
  · exact .inr ⟨_, by assumption, rfl⟩

/-! ## Host calls -/

theorem serveWrite_cases (s : State) (r : Except CoreError Memory) :
    (∃ m, r = .ok m ∧ s.serveWrite r = State.answer { s with mem := m } .done) ∨
      ∃ e, r = .error e ∧ s.serveWrite r = s.answer (.error e) := by
  cases r with
  | ok m => exact .inl ⟨m, rfl, rfl⟩
  | error e => exact .inr ⟨e, rfl, rfl⟩

theorem serveRead_cases {α : Type} (s : State) (wrap : α → HostAnswer) (r : Except CoreError α) :
    ∃ a, s.serveRead wrap r = s.answer a := by
  cases r with
  | ok v => exact ⟨_, rfl⟩
  | error e => exact ⟨_, rfl⟩

/-- A host call but the machine reset writes at most the timers, Mem, FB and the host's answer. -/
theorem serve_frame (s : State) (c : HostCall) (h : c ≠ .reset) :
    s.serve c = { s with
      dt := (s.serve c).dt, st := (s.serve c).st, mem := (s.serve c).mem, fb := (s.serve c).fb
      hostAnswer := (s.serve c).hostAnswer } := by
  cases c
  case reset => exact absurd rfl h
  case loadRom l => cases hr : s.mem.loadRom l <;> simp only [State.serve, hr] <;> rfl
  case readByte a => cases hr : s.mem.readByte a <;> simp only [State.serve, hr] <;> rfl
  case writeByte a b => cases hr : s.mem.writeByte s.wp a b <;> simp only [State.serve, hr] <;> rfl
  case readWord a => cases hr : s.mem.readWord a <;> simp only [State.serve, hr] <;> rfl
  case writeWord a w => cases hr : s.mem.writeWord s.wp a w <;> simp only [State.serve, hr] <;> rfl
  case fontGlyphAddress d => cases hr : fontGlyphAddress d <;> simp only [State.serve, hr] <;> rfl
  case decodeOpcode op => simp only [State.serve]; split <;> rfl
  all_goals rfl

/-- Only the machine reset clears the Fault record, and no host call sets it (10_state.md R38). -/
theorem serve_fault (s : State) (c : HostCall) : (s.serve c).fault = if c = .reset then none else s.fault := by
  split
  · subst_vars; rfl
  · rw [serve_frame s c (by assumption)]

end Sys2Proof.Machine
end

