-- ==== Sys2Proof/Laws/PerInstr.lean ====
section
/-! SUPPORT. Statements for all instructions, made per instruction. -/

namespace Sys2Proof.Laws.LegalWord

/-- The word an instruction encodes to is legal under both values of ZERO_FAMILY_MATCH (30_encoding.md R95): it selects a
row of the opcode map. -/
def Statement (i : Instr) : Prop := ∀ z, wellFormedOpcode z (encode i) = true

/-- A word is legal when it selects one of the map's rows. -/
theorem legal_of_row {z : ZeroFamilyMatch} {op : Word} (r : OpcodeRow) (hr : r ∈ opcodeMap z)
    (h : op &&& r.mask = r.value) : wellFormedOpcode z op = true :=
  List.any_eq_true.mpr ⟨r, hr, by simpa [OpcodeRow.selects] using h⟩

theorem addr_legal (h : BitVec 4) (nnn : Addr12) (v : Word) (hr : ∀ z, (⟨0xF000, v⟩ : OpcodeRow) ∈ opcodeMap z)
    (hv : v.toNat = h.toNat * 4096) (z : ZeroFamilyMatch) : wellFormedOpcode z (encodeAddr h nnn) = true := by
  refine legal_of_row _ (hr z) (BitVec.eq_of_toNat_eq ?_)
  have := nnn.isLt
  rw [and_F000_toNat, encodeAddr_toNat, hv]
  omega

theorem xkk_legal (h : BitVec 4) (x : RegIdx) (kk : Byte) (v : Word)
    (hr : ∀ z, (⟨0xF000, v⟩ : OpcodeRow) ∈ opcodeMap z) (hv : v.toNat = h.toNat * 4096) (z : ZeroFamilyMatch) :
    wellFormedOpcode z (encodeXkk h x kk) = true := by
  refine legal_of_row _ (hr z) (BitVec.eq_of_toNat_eq ?_)
  have := kk.isLt
  have := x.isLt
  rw [and_F000_toNat, encodeXkk_toNat, hv]
  omega

theorem x_legal (h : BitVec 4) (x : RegIdx) (sub : Byte) (v : Word)
    (hr : ∀ z, (⟨0xF0FF, v⟩ : OpcodeRow) ∈ opcodeMap z) (hv : v.toNat = h.toNat * 4096 + sub.toNat)
    (z : ZeroFamilyMatch) : wellFormedOpcode z (encodeXkk h x sub) = true := by
  refine legal_of_row _ (hr z) (BitVec.eq_of_toNat_eq ?_)
  have := sub.isLt
  have := x.isLt
  rw [and_F0FF_toNat, encodeXkk_toNat, hv]
  omega

theorem xy_legal (h : BitVec 4) (x y : RegIdx) (sub : Nibble) (v : Word)
    (hr : ∀ z, (⟨0xF00F, v⟩ : OpcodeRow) ∈ opcodeMap z) (hv : v.toNat = h.toNat * 4096 + sub.toNat)
    (z : ZeroFamilyMatch) : wellFormedOpcode z (encodeXyn h x y sub) = true := by
  refine legal_of_row _ (hr z) (BitVec.eq_of_toNat_eq ?_)
  have := sub.isLt
  have := x.isLt
  have := y.isLt
  rw [and_F00F_toNat, encodeXyn_toNat, hv]
  omega

theorem xyn_legal (h : BitVec 4) (x y : RegIdx) (n : Nibble) (v : Word)
    (hr : ∀ z, (⟨0xF000, v⟩ : OpcodeRow) ∈ opcodeMap z) (hv : v.toNat = h.toNat * 4096)
    (z : ZeroFamilyMatch) : wellFormedOpcode z (encodeXyn h x y n) = true := by
  refine legal_of_row _ (hr z) (BitVec.eq_of_toNat_eq ?_)
  have := n.isLt
  have := x.isLt
  have := y.isLt
  rw [and_F000_toNat, encodeXyn_toNat, hv]
  omega

theorem clear : Statement .clear := fun z => by cases z <;> decide
theorem ret : Statement .ret := fun z => by cases z <;> decide
theorem jump (nnn : Addr12) : Statement (.jump nnn) := addr_legal 0x1 nnn 0x1000 (fun z => by cases z <;> decide) rfl
theorem call (nnn : Addr12) : Statement (.call nnn) := addr_legal 0x2 nnn 0x2000 (fun z => by cases z <;> decide) rfl
theorem skipEqualImm (x : RegIdx) (kk : Byte) : Statement (.skipEqualImm x kk) :=
  xkk_legal 0x3 x kk 0x3000 (fun z => by cases z <;> decide) rfl
theorem skipNotEqualImm (x : RegIdx) (kk : Byte) : Statement (.skipNotEqualImm x kk) :=
  xkk_legal 0x4 x kk 0x4000 (fun z => by cases z <;> decide) rfl
theorem skipEqualReg (x y : RegIdx) : Statement (.skipEqualReg x y) :=
  xy_legal 0x5 x y 0x0 0x5000 (fun z => by cases z <;> decide) rfl
theorem loadImm (x : RegIdx) (kk : Byte) : Statement (.loadImm x kk) :=
  xkk_legal 0x6 x kk 0x6000 (fun z => by cases z <;> decide) rfl
theorem addImm (x : RegIdx) (kk : Byte) : Statement (.addImm x kk) :=
  xkk_legal 0x7 x kk 0x7000 (fun z => by cases z <;> decide) rfl
theorem loadReg (x y : RegIdx) : Statement (.loadReg x y) :=
  xy_legal 0x8 x y 0x0 0x8000 (fun z => by cases z <;> decide) rfl
theorem orReg (x y : RegIdx) : Statement (.orReg x y) :=
  xy_legal 0x8 x y 0x1 0x8001 (fun z => by cases z <;> decide) rfl
theorem andReg (x y : RegIdx) : Statement (.andReg x y) :=
  xy_legal 0x8 x y 0x2 0x8002 (fun z => by cases z <;> decide) rfl
theorem xorReg (x y : RegIdx) : Statement (.xorReg x y) :=
  xy_legal 0x8 x y 0x3 0x8003 (fun z => by cases z <;> decide) rfl
theorem addReg (x y : RegIdx) : Statement (.addReg x y) :=
  xy_legal 0x8 x y 0x4 0x8004 (fun z => by cases z <;> decide) rfl
theorem subReg (x y : RegIdx) : Statement (.subReg x y) :=
  xy_legal 0x8 x y 0x5 0x8005 (fun z => by cases z <;> decide) rfl
theorem shrReg (x y : RegIdx) : Statement (.shrReg x y) :=
  xy_legal 0x8 x y 0x6 0x8006 (fun z => by cases z <;> decide) rfl
theorem subnReg (x y : RegIdx) : Statement (.subnReg x y) :=
  xy_legal 0x8 x y 0x7 0x8007 (fun z => by cases z <;> decide) rfl
theorem shlReg (x y : RegIdx) : Statement (.shlReg x y) :=
  xy_legal 0x8 x y 0xE 0x800E (fun z => by cases z <;> decide) rfl
theorem skipNotEqualReg (x y : RegIdx) : Statement (.skipNotEqualReg x y) :=
  xy_legal 0x9 x y 0x0 0x9000 (fun z => by cases z <;> decide) rfl
theorem setIndex (nnn : Addr12) : Statement (.setIndex nnn) :=
  addr_legal 0xA nnn 0xA000 (fun z => by cases z <;> decide) rfl
theorem jumpWithV0 (nnn : Addr12) : Statement (.jumpWithV0 nnn) :=
  addr_legal 0xB nnn 0xB000 (fun z => by cases z <;> decide) rfl
theorem random (x : RegIdx) (kk : Byte) : Statement (.random x kk) :=
  xkk_legal 0xC x kk 0xC000 (fun z => by cases z <;> decide) rfl
theorem draw (x y : RegIdx) (n : Nibble) : Statement (.draw x y n) :=
  xyn_legal 0xD x y n 0xD000 (fun z => by cases z <;> decide) rfl
theorem skipKeyPressed (x : RegIdx) : Statement (.skipKeyPressed x) :=
  x_legal 0xE x 0x9E 0xE09E (fun z => by cases z <;> decide) rfl
theorem skipKeyNotPressed (x : RegIdx) : Statement (.skipKeyNotPressed x) :=
  x_legal 0xE x 0xA1 0xE0A1 (fun z => by cases z <;> decide) rfl
theorem loadDelay (x : RegIdx) : Statement (.loadDelay x) :=
  x_legal 0xF x 0x07 0xF007 (fun z => by cases z <;> decide) rfl
theorem waitKey (x : RegIdx) : Statement (.waitKey x) :=
  x_legal 0xF x 0x0A 0xF00A (fun z => by cases z <;> decide) rfl
theorem setDelay (x : RegIdx) : Statement (.setDelay x) :=
  x_legal 0xF x 0x15 0xF015 (fun z => by cases z <;> decide) rfl
theorem setSound (x : RegIdx) : Statement (.setSound x) :=
  x_legal 0xF x 0x18 0xF018 (fun z => by cases z <;> decide) rfl
theorem addIndex (x : RegIdx) : Statement (.addIndex x) :=
  x_legal 0xF x 0x1E 0xF01E (fun z => by cases z <;> decide) rfl
theorem loadFont (x : RegIdx) : Statement (.loadFont x) :=
  x_legal 0xF x 0x29 0xF029 (fun z => by cases z <;> decide) rfl
theorem storeBcd (x : RegIdx) : Statement (.storeBcd x) :=
  x_legal 0xF x 0x33 0xF033 (fun z => by cases z <;> decide) rfl
theorem storeRegisters (x : RegIdx) : Statement (.storeRegisters x) :=
  x_legal 0xF x 0x55 0xF055 (fun z => by cases z <;> decide) rfl
theorem loadRegisters (x : RegIdx) : Statement (.loadRegisters x) :=
  x_legal 0xF x 0x65 0xF065 (fun z => by cases z <;> decide) rfl

end Sys2Proof.Laws.LegalWord
end

