-- ==== Sys2Proof/Tests/Slice0.lean ====
section
/-! SUPPORT. Tests by hand: words written out bit by bit from 30_encoding.md, ill-formed words the check refuses, the vectors of 95_test_vectors.md, one step each, and for every statement with hypotheses a state and operands that meet them. -/

open Sys2Proof Sys2Proof.Machine

/-- The bytes `l` stored from `a` on. -/
def Sys2Proof.Machine.State.withBytes (s : State) (a : Nat) (l : List Byte) : State := { s with mem := s.mem.storeBytes a l }

namespace Sys2Proof.Tests

/-! ## Helpers -/

/-- The start state of 95_test_vectors.md, with PC already advanced as a meaning finds it. -/
def atExec : State := { State.reset with pc := 0x202 }

/-- A view of the state after a result, if it is a next state. -/
def after {α : Type} (r : Result) (view : State → α) : Option α :=
  match r with
  | .next t => some (view t)
  | _ => none

/-- The wrapped record of an instruction at 0x200 whose opcode is `op`. -/
def failedAt200 (op : Word) (e : CoreError) : Option CoreError := some (.instructionExecutionFailed op 0x200 e)

/-! ## Decoding (V-DEC, and R84 to R95): each family by a word written out bit by bit -/

theorem test_decode_clear : ∀ z, decode z (0b0000000011100000 : Word) = .ok .clear := fun z => by cases z <;> decide
theorem test_decode_ret : ∀ z, decode z (0b0000000011101110 : Word) = .ok .ret := fun z => by cases z <;> decide
theorem test_decode_clear_ignored_bits : decode .lowByte (0b0000101011100000 : Word) = .ok .clear := by decide
theorem test_decode_jump : ∀ z, decode z (0b0001101010111100 : Word) = .ok (.jump 0xABC) := fun z => by cases z <;> decide
theorem test_decode_call : ∀ z, decode z (0b0010001100000000 : Word) = .ok (.call 0x300) := fun z => by cases z <;> decide
theorem test_decode_skipEqualImm : ∀ z, decode z (0b0011000110100101 : Word) = .ok (.skipEqualImm 1 0xA5) := fun z => by cases z <;> decide
theorem test_decode_skipNotEqualImm : ∀ z, decode z (0b0100111100000001 : Word) = .ok (.skipNotEqualImm 15 0x01) := fun z => by cases z <;> decide
theorem test_decode_skipEqualReg : ∀ z, decode z (0b0101000100100000 : Word) = .ok (.skipEqualReg 1 2) := fun z => by cases z <;> decide
theorem test_decode_loadImm : ∀ z, decode z (0b0110001101000010 : Word) = .ok (.loadImm 3 0x42) := fun z => by cases z <;> decide
theorem test_decode_addImm : ∀ z, decode z (0b0111000111111111 : Word) = .ok (.addImm 1 0xFF) := fun z => by cases z <;> decide
theorem test_decode_eight_low : ∀ z, decode z (0b1000000100100000 : Word) = .ok (.loadReg 1 2) ∧
    decode z (0b1000000100100001 : Word) = .ok (.orReg 1 2) ∧ decode z (0b1000000100100010 : Word) = .ok (.andReg 1 2) ∧
    decode z (0b1000000100100011 : Word) = .ok (.xorReg 1 2) ∧ decode z (0b1000000100100100 : Word) = .ok (.addReg 1 2) := fun z => by cases z <;> decide
theorem test_decode_eight_high : ∀ z, decode z (0b1000000100100101 : Word) = .ok (.subReg 1 2) ∧
    decode z (0b1000000100100110 : Word) = .ok (.shrReg 1 2) ∧ decode z (0b1000000100100111 : Word) = .ok (.subnReg 1 2) ∧
    decode z (0b1000000000001110 : Word) = .ok (.shlReg 0 0) := fun z => by cases z <;> decide
theorem test_decode_skipNotEqualReg : ∀ z, decode z (0b1001101010110000 : Word) = .ok (.skipNotEqualReg 10 11) := fun z => by cases z <;> decide
theorem test_decode_setIndex : ∀ z, decode z (0b1010001100000000 : Word) = .ok (.setIndex 0x300) := fun z => by cases z <;> decide
theorem test_decode_jumpWithV0 : ∀ z, decode z (0b1011111111111111 : Word) = .ok (.jumpWithV0 0xFFF) := fun z => by cases z <;> decide
theorem test_decode_random : ∀ z, decode z (0b1100000000001111 : Word) = .ok (.random 0 0x0F) := fun z => by cases z <;> decide
theorem test_decode_draw : ∀ z, decode z (0b1101000100100000 : Word) = .ok (.draw 1 2 0) := fun z => by cases z <;> decide
theorem test_decode_keys : ∀ z, decode z (0b1110000110011110 : Word) = .ok (.skipKeyPressed 1) ∧
    decode z (0b1110000010100001 : Word) = .ok (.skipKeyNotPressed 0) := fun z => by cases z <;> decide
theorem test_decode_f_timers : ∀ z, decode z (0b1111000100000111 : Word) = .ok (.loadDelay 1) ∧
    decode z (0b1111001000001010 : Word) = .ok (.waitKey 2) ∧ decode z (0b1111000000010101 : Word) = .ok (.setDelay 0) ∧
    decode z (0b1111001000011000 : Word) = .ok (.setSound 2) := fun z => by cases z <;> decide
theorem test_decode_f_memory : ∀ z, decode z (0b1111001000011110 : Word) = .ok (.addIndex 2) ∧
    decode z (0b1111000100101001 : Word) = .ok (.loadFont 1) ∧ decode z (0b1111000000110011 : Word) = .ok (.storeBcd 0) ∧
    decode z (0b1111001001010101 : Word) = .ok (.storeRegisters 2) ∧
    decode z (0b1111010001100101 : Word) = .ok (.loadRegisters 4) := fun z => by cases z <;> decide
theorem test_decodeTableWord : decodeTableWord 16 0x6342 = some (.loadImm 3 0x42) ∧ decodeTableWord 16 0x0000 = none := by decide
theorem test_decodeBytes : decodeBytes .lowByte [0x63, 0x42, 0xA3] = .ok (.loadImm 3 0x42, [0xA3]) ∧
    decodeBytes .lowByte [0x63] = .error .truncated := by decide

/-! ## WellFormed smoke: a word for each way to be illegal, refused by the check and, by name, by the decoder -/

theorem test_illegal_zero : ∀ z, wellFormedOpcode z 0x0000 = false ∧ wellFormedOpcode z 0x0123 = false ∧
    wellFormedOpcode z 0x00EF = false ∧ decode z 0x0123 = .error (.unknownInstruction 0x0123) := fun z => by cases z <;> decide
theorem test_illegal_fullWord : wellFormedOpcode .fullWord 0x0AE0 = false ∧ wellFormedOpcode .fullWord 0x01EE = false ∧
    wellFormedOpcode .lowByte 0x0AE0 = true ∧ decode .fullWord 0x0AE0 = .error (.unknownInstruction 0x0AE0) := by decide
theorem test_illegal_five : ∀ z, wellFormedOpcode z 0x5121 = false ∧ decode z 0x5121 = .error (.unknownInstruction 0x5121) := fun z => by cases z <;> decide
theorem test_illegal_eight : ∀ z, wellFormedOpcode z 0x8008 = false ∧ wellFormedOpcode z 0x800D = false ∧
    wellFormedOpcode z 0x800F = false ∧ decode z 0x8008 = .error (.unknownInstruction 0x8008) := fun z => by cases z <;> decide
theorem test_illegal_nine : ∀ z, wellFormedOpcode z 0x9AB1 = false ∧ decode z 0x9AB1 = .error (.unknownInstruction 0x9AB1) := fun z => by cases z <;> decide
theorem test_illegal_e : ∀ z, wellFormedOpcode z 0xE19F = false ∧ decode z 0xE19F = .error (.unknownInstruction 0xE19F) := fun z => by cases z <;> decide
theorem test_illegal_f : ∀ z, wellFormedOpcode z 0xF000 = false ∧ wellFormedOpcode z 0xFFFF = false ∧
    decode z 0xF000 = .error (.unknownInstruction 0xF000) := fun z => by cases z <;> decide

/-! ## Control flow (V-CF) -/

theorem test_call_pushes : after (exec (.call 0x300) atExec) (fun t => (t.pc, t.sp, t.stack[(0 : Fin 16)])) =
    some (0x300, 1, 0x202) := by decide
theorem test_call_overflow : after (exec (.call 0x300) ({ atExec with sp := 16 }.withBytes 0x200 [0x23, 0x00]))
    (fun t => (t.pc, t.sp, t.fault)) = some (0x202, 16, failedAt200 0x2300 .stackOverflow) := by decide
theorem test_ret_pops : after (exec .ret { atExec with sp := 1, stack := atExec.stack.set 0 0x202, pc := 0x302 })
    (fun t => (t.pc, t.sp)) = some (0x202, 0) := by decide
theorem test_ret_underflow : after (exec .ret (atExec.withBytes 0x200 [0x00, 0xEE])) (fun t => (t.pc, t.sp, t.fault)) =
    some (0x202, 0, failedAt200 0x00EE .stackUnderflow) := by decide
theorem test_jump : after (exec (.jump 0xABC) atExec) (·.pc) = some 0xABC := by decide
theorem test_jumpWithV0_top : after (exec (.jumpWithV0 0xFFF) (atExec.setV 0 0xFF)) (·.pc) = some 0x10FE := by decide
theorem test_jumpWithV0_not_vx : after (exec (.jumpWithV0 0x300) ((atExec.setV 0 0x10).setV 3 0x55)) (·.pc) = some 0x310 := by
  decide
theorem test_skipEqualImm : after (exec (.skipEqualImm 0 0x00) { atExec with pc := 0x1000 }) (·.pc) = some 0x1002 := by decide
theorem test_skipNotEqualImm : after (exec (.skipNotEqualImm 1 0x05) (atExec.setV 1 5)) (·.pc) = some 0x202 := by decide
theorem test_skipEqualReg_same : after (exec (.skipEqualReg 4 4) atExec) (·.pc) = some 0x204 := by decide
theorem test_skipNotEqualReg_same : after (exec (.skipNotEqualReg 4 4) atExec) (·.pc) = some 0x202 := by decide
theorem test_skipNotEqualReg : after (exec (.skipNotEqualReg 2 3) ((atExec.setV 2 7).setV 3 8)) (·.pc) = some 0x204 := by decide

/-! ## Arithmetic and logic (V-ALU) -/

theorem test_loadImm : after (exec (.loadImm 10 0x42) atExec) (·.getV 10) = some 0x42 := by decide
theorem test_addImm_wraps : after (exec (.addImm 0 0x01) ((atExec.setV 0 0xFF).setV VF 0x55)) (fun t => (t.getV 0, t.getV VF)) =
    some (0x00, 0x55) := by decide
theorem test_loadReg_vf : after (exec (.loadReg 15 0) (atExec.setV 0 0x12)) (·.getV VF) = some 0x12 := by decide
theorem test_orReg : after (exec (.orReg 0 1) (((atExec.setV 0 0xF0).setV 1 0x0F).setV VF 0x55))
    (fun t => (t.getV 0, t.getV VF)) = some (0xFF, 0x55) := by decide
theorem test_andReg : after (exec (.andReg 0 1) ((atExec.setV 0 0xF0).setV 1 0x3C)) (·.getV 0) = some 0x30 := by decide
theorem test_xorReg : after (exec (.xorReg 0 1) ((atExec.setV 0 0xF0).setV 1 0xF0)) (·.getV 0) = some 0x00 := by decide
theorem test_addReg_carry : after (exec (.addReg 0 1) ((atExec.setV 0 0xFF).setV 1 0x01)) (fun t => (t.getV 0, t.getV VF)) =
    some (0x00, 1) := by decide
theorem test_addReg_vf : after (exec (.addReg 15 1) ((atExec.setV VF 0xFF).setV 1 0x01)) (·.getV VF) = some 1 := by decide
theorem test_subReg_equal : after (exec (.subReg 0 1) ((atExec.setV 0 5).setV 1 5)) (fun t => (t.getV 0, t.getV VF)) =
    some (0x00, 1) := by decide
theorem test_subReg_borrow : after (exec (.subReg 0 1) ((atExec.setV 0 4).setV 1 5)) (fun t => (t.getV 0, t.getV VF)) =
    some (0xFF, 0) := by decide
theorem test_shrReg_ignores_y : after (exec (.shrReg 1 2) ((atExec.setV 1 0x04).setV 2 0xFF)) (fun t => (t.getV 1, t.getV VF)) =
    some (0x02, 0) := by decide
theorem test_shrReg_vf : after (exec (.shrReg 15 0) (atExec.setV VF 0x03)) (·.getV VF) = some 0x00 ∧
    after (exec (.shrReg 15 0) { atExec.setV VF 0x03 with params := { atExec.params with vfDestPolicy := .flagLast } })
      (·.getV VF) = some 0x01 := by decide
theorem test_subnReg : after (exec (.subnReg 0 1) ((atExec.setV 0 7).setV 1 5)) (fun t => (t.getV 0, t.getV VF)) =
    some (0xFE, 0) := by decide
theorem test_subnReg_vf : after (exec (.subnReg 15 1) ((atExec.setV VF 3).setV 1 5)) (·.getV VF) = some 1 := by decide
theorem test_shlReg : after (exec (.shlReg 1 0) (atExec.setV 1 0x80)) (fun t => (t.getV 1, t.getV VF)) = some (0x00, 1) := by
  decide
theorem test_shlReg_vf : after (exec (.shlReg 15 0) (atExec.setV VF 0x81)) (·.getV VF) = some 0x02 ∧
    after (exec (.shlReg 15 0) { atExec.setV VF 0x81 with params := { atExec.params with vfDestPolicy := .flagLast } })
      (·.getV VF) = some 0x01 := by decide

/-- A state with answers injected for the RNG and the Input. -/
def injected (keys : List Bool) (presses : List (Option Key)) (bytes : List Byte) : State :=
  { atExec with oracle := { atExec.oracle with keyStates := keys, keyPresses := presses, randomBytes := bytes } }

theorem test_random : after (exec (.random 0 0x0F) (injected [] [] [0xAB, 0x01])) (fun t => (t.getV 0, t.oracle.randomBytes)) =
    some (0x0B, [0x01]) := by decide
theorem test_random_mask_zero : after (exec (.random 0 0x00) (injected [] [] [0xAB])) (·.getV 0) = some 0x00 := by decide

/-! ## Index register and memory (V-IDX) -/

theorem test_setIndex : after (exec (.setIndex 0x300) atExec) (·.i) = some 0x300 := by decide
theorem test_addIndex_past_12_bits : after (exec (.addIndex 0) (State.setV { atExec with i := 0xFFF } 0 1)) (·.i) =
    some 0x1000 := by decide
theorem test_addIndex_wraps : after (exec (.addIndex 0) ((State.setV { atExec with i := 0xFFFF } 0 2).setV VF 0x77))
    (fun t => (t.i, t.getV VF)) = some (0x0001, 0x77) := by decide
theorem test_loadFont_top : after (exec (.loadFont 0) (atExec.setV 0 0x0F)) (·.i) = some 0x09B := by decide
theorem test_loadFont_invalid : after (exec (.loadFont 0) ((atExec.setV 0 0x10).withBytes 0x200 [0xF0, 0x29]))
    (fun t => (t.i, t.fault)) = some (0, failedAt200 0xF029 (.invalidFontDigit 16)) := by decide

/-- V0 = `b` and I = `a`, protected or not. -/
def storing (b : Byte) (a : Word) (wp : Bool) : State := State.setV { atExec with i := a, wp := wp } 0 b

theorem test_storeBcd : after (exec (.storeBcd 0) (storing 255 0x300 true)) (fun t => (t.mem.bytesFrom 0x300 3, t.i)) =
    some ([2, 5, 5], 0x300) := by decide
theorem test_storeBcd_fails : after (exec (.storeBcd 0) (storing 255 0xFFE false))
      (fun t => (t.mem.bytesFrom 0xFFE 2, t.fault)) = some ([0, 0], failedAt200 0 (.outOfBounds 0x1000)) ∧
    after (exec (.storeBcd 0) (storing 255 0x1FE true)) (fun t => (t.mem.bytesFrom 0x1FE 3, t.fault)) =
      some ([0, 0, 0], failedAt200 0 (.writeProtected 0x1FE)) := by decide
theorem test_storeRegisters : after (exec (.storeRegisters 2) (((storing 1 0x300 true).setV 1 2).setV 2 3))
    (fun t => (t.mem.bytesFrom 0x300 4, t.i)) = some ([1, 2, 3, 0], 0x300) := by decide
theorem test_storeRegisters_increments : after (exec (.storeRegisters 2)
      { storing 1 0x300 false with params := { atExec.params with loadStoreIncrementsI := true } }) (·.i) = some 0x303 ∧
    after (exec (.storeRegisters 15) (storing 1 0xFF1 false)) (fun t => (t.mem.bytesFrom 0xFF1 15, t.fault)) =
      some (List.replicate 15 0, failedAt200 0 (.outOfBounds 0x1000)) := by decide
theorem test_loadRegisters_font : after (exec (.loadRegisters 4) (storing 0 0x050 true)) (fun t => t.v.toList.take 6) =
    some [0xF0, 0x90, 0x90, 0x90, 0xF0, 0] := by decide
theorem test_loadRegisters_fails : after (exec (.loadRegisters 15) (storing 9 0xFF1 false)) (fun t => (t.getV 0, t.fault)) =
    some (9, failedAt200 0 (.outOfBounds 0x1000)) := by decide

/-! ## Display (V-DSP) -/

/-- V0 = `x`, V1 = `y`, I = 0x300 and `l` there. -/
def drawing (x y : Byte) (l : List Byte) : State :=
  (((storing x 0x300 false).setV 1 y).withBytes 0x300 l)

theorem test_clear : after (exec .clear { atExec with fb := atExec.fb.set 5 6 true }) (fun t => t.fb.get 5 6) = some false := by
  decide
theorem test_draw_wraps : after (exec (.draw 0 1 1) (drawing 62 0 [0xFF]))
    (fun t => ([t.fb.get 62 0, t.fb.get 63 0, t.fb.get 0 0, t.fb.get 5 0, t.fb.get 6 0, t.fb.get 61 0], t.getV VF)) =
      some ([true, true, true, true, false, false], 0) ∧
    after (exec (.draw 0 1 2) (drawing 67 31 [0x80, 0x80])) (fun t => (t.fb.get 3 31, t.fb.get 3 0, t.getV VF)) =
      some (true, true, 0) := by decide
theorem test_draw_collides_and_fails : after (exec (.draw 0 1 1) { drawing 0 0 [0x18] with fb := atExec.fb.set 3 0 true })
      (fun t => (t.fb.get 3 0, t.fb.get 4 0, t.getV VF)) = some (false, true, 1) ∧
    after (exec (.draw 1 2 0) (storing 0 0xFFF false)) (·.fault) = some (failedAt200 0 .emptySpriteData) ∧
    after (exec (.draw 1 2 3) (State.setV (storing 0 0xFFE false) VF 0x33)) (fun t => (t.getV VF, t.fault)) =
      some (0x33, failedAt200 0 (.outOfBounds 0x1000)) := by decide

/-! ## Keypad and timers (V-KT) -/

theorem test_skipKeyPressed : after (exec (.skipKeyPressed 0) (injected [true, false] [] [])) (fun t => (t.pc, t.oracle.keyStates)) =
    some (0x204, [false]) := by decide
theorem test_keyOperand_masks : (atExec.setV 0 0x1A).keyOperand 0 = 10 := by decide
theorem test_skipKeyNotPressed : after (exec (.skipKeyNotPressed 0) (injected [false] [] [])) (·.pc) = some 0x204 := by decide
theorem test_waitKey_ready : after (exec (.waitKey 3) (injected [] [some 9] [])) (fun t => (t.getV 3, t.execState, t.pc)) =
    some (9, .running, 0x202) := by decide
theorem test_waitKey_waits : after (exec (.waitKey 15) (injected [] [none] [])) (fun t => (t.execState, t.pc)) =
    some (.waitingForKey 15, 0x202) := by decide
theorem test_waiting_cycle : after (cycle { injected [] [some 4] [] with execState := .waitingForKey 15 })
    (fun t => (t.getV VF, t.execState, t.pc)) = some (4, .running, 0x202) := by decide
theorem test_loadDelay : after (exec (.loadDelay 1) { atExec with dt := 0x3C }) (·.getV 1) = some 0x3C := by decide
theorem test_setDelay : after (exec (.setDelay 0) { atExec.setV 0 7 with dt := 9 }) (·.dt) = some 7 := by decide
theorem test_setSound : after (exec (.setSound 2) (atExec.setV 2 2)) (fun t =>
    (t.st, t.shouldBeep, t.updateTimers.shouldBeep, t.updateTimers.updateTimers.shouldBeep)) = some (2, true, true, false) := by
  decide
theorem test_tick_floor : State.updateTimers { atExec with dt := 1, st := 0 } = { atExec with dt := 0, st := 0 } := by decide

/-! ## The cycle and the step (V-CYC), and running a table word -/

theorem test_cycle_last_word : after (cycle ({ State.reset with pc := 0xFFE }.withBytes 0xFFE [0x60, 0x01]))
    (fun t => (t.getV 0, t.pc)) = some (1, 0x1000) := by decide
theorem test_cycle_odd_pc : after (cycle ({ State.reset with pc := 0x201 }.withBytes 0x201 [0x61, 0x23]))
    (fun t => (t.getV 1, t.pc)) = some (0x23, 0x203) := by decide
theorem test_cycle_pc_out : after (cycle { State.reset with pc := 0xFFF }) (fun t => (t.pc, t.fault)) =
    some (0xFFF, some (.invalidProgramCounter 0xFFF)) := by decide
theorem test_cycle_no_rom : after (cycle State.reset) (fun t => (t.pc, t.fault)) =
    some (0x202, failedAt200 0x0000 (.unknownInstruction 0x0000)) := by decide
theorem test_step_runs_table_word : after (step (State.reset.withFetchWord 16 0x6342)) (fun t => (t.getV 3, t.pc, t.fault)) =
    some (0x42, 0x202, none) := by decide
theorem test_step_after_faulted : after (step (State.withFetchWord
    { State.reset with fault := some .stackOverflow, pc := 0xFFF, schedule := [.updateTimers] } 16 0xA300)) (fun t => (t.i, t.pc)) = some (0x300, 0x202) := by decide
theorem test_step_self_modifying : after (step ((((State.reset.setI 0x202).setV 0 0x61).setV 1 0x07).withFetchWord
    16 0xF155)) (fun t => after (step t) (·.getV 1)) = some (some 0x07) := by decide

/-! ## Host calls (V-MEM, V-RST) -/

/-- The state after the host's call, from a state with that one call scheduled. -/
def called (c : HostCall) (s : State) : Result := step { s with schedule := [c] }

theorem test_host_writeByte : after (called (.writeByte 0x1FF 7) { atExec with wp := true }) (fun t => (t.mem.get 0x1FF, t.hostAnswer, t.fault)) =
      some (0, some (.error (.writeProtected 0x1FF)), none) ∧
    after (called (.writeByte 0x1FF 7) atExec) (fun t => (t.mem.get 0x1FF, t.hostAnswer)) = some (7, some .done) := by decide
theorem test_host_readByte : after (called (.readByte 0x1000) atExec) (·.hostAnswer) = some (some (.error (.outOfBounds 0x1000))) ∧
    after (called (.readByte 0x09B) atExec) (·.hostAnswer) = some (some (.byte 0xF0)) := by decide
theorem test_host_words : after (called (.writeWord 0x300 0xABCD) atExec) (fun t => t.mem.bytesFrom 0x300 2) = some [0xAB, 0xCD] ∧
    after (called (.readWord 0xFFF) atExec) (·.hostAnswer) = some (some (.error (.wordOutOfBounds 0xFFF))) ∧
    after (called (.writeWord 0x1FF 0x1234) { atExec with wp := true }) (fun t => t.mem.bytesFrom 0x1FF 2) = some [0, 0] := by decide
theorem test_host_loadRom : after (called (.loadRom [0x63, 0x42, 0xA3]) { atExec with wp := true }) (fun t => t.mem.bytesFrom 0x1FF 5) =
    some [0, 0x63, 0x42, 0xA3, 0] := by decide
theorem test_host_loadRom_too_large : ∀ l : List Byte, l.length = 3585 →
    atExec.mem.loadRom l = .error (.romTooLarge 3585) := fun l h => by simp [Memory.loadRom, h]
theorem test_host_glyph : after (called (.fontGlyphAddress 5) atExec) (·.hostAnswer) = some (some (.word 0x069)) ∧
    after (called (.fontGlyphAddress 16) atExec) (·.hostAnswer) = some (some (.error (.invalidFontDigit 16))) := by decide
theorem test_host_pixels : after (called (.getPixel (-1) 0) atExec) (·.hostAnswer) = some (some (.bool false)) ∧
    after (called (.setPixel 64 0 true) atExec) (·.fb) = some atExec.fb ∧
    after (called .stats { atExec with fb := atExec.fb.set 63 31 true }) (·.hostAnswer) = some (some (.stats 64 32 1 2048)) := by
  decide
theorem test_host_decode : after (called (.decodeOpcode 0x8127) atExec) (·.hostAnswer) = some (some (.decoded (.subnReg 1 2))) ∧
    after (called (.decodeOpcode 0x8128) atExec) (·.hostAnswer) = some (some (.error (.unknownInstruction 0x8128))) := by decide
theorem test_host_reset : after (called .reset { (atExec.withBytes 0x050 [0]).withBytes 0x300 [5] with
    wp := true, sp := 5, dt := 9, execState := .waitingForKey 3, fault := some .stackOverflow, fb := atExec.fb.set 1 1 true })
    (fun t => t) = some { State.reset with wp := true, hostAnswer := some .done } := by decide
/-- V-MEM-11: the memory controller's own reset, on a Faulted machine, leaves all but Mem alone. -/
theorem test_host_memoryReset : after (called .memoryReset { (atExec.withBytes 0x050 [0]).withBytes 0x300 [5] with
    wp := true, sp := 5, dt := 9, execState := .waitingForKey 3, fault := some .stackOverflow })
    (fun t => t) = some { atExec with
      wp := true, sp := 5, dt := 9, execState := .waitingForKey 3, fault := some .stackOverflow, hostAnswer := some .done } := by
  decide
theorem test_host_dump : after (called .memoryDump atExec) (·.hostAnswer) = some (some (.bytes (atExec.mem.bytesFrom 0 4096))) ∧
    (atExec.mem.bytesFrom 0 4096).length = 4096 := ⟨rfl, by simp [Memory.bytesFrom]⟩

/-! ## Witnesses: states and operands that meet the hypotheses of each statement, one for each clause, at boundary values -/

theorem test_witness_DecoderAcceptsExactlyTheOpcodeMap : (∃ r ∈ opcodeMap .fullWord, (0x00E0 : Word) &&& r.mask = r.value) ∧
    ¬ ∃ r ∈ opcodeMap .fullWord, (0x01E0 : Word) &&& r.mask = r.value := by decide
theorem test_witness_EncodeOfDecodeGivesOpcode : decode .lowByte 0xFFFE ≠ .ok .ret ∧ decode .lowByte 0x0FEE = .ok .ret ∧
    encode .ret = 0x0FEE &&& 0xF0FF ∧ decode .fullWord 0x8AB6 = .ok (.shrReg 10 11) ∧ encode (.shrReg 10 11) = 0x8AB6 := by decide
theorem test_witness_ReturnPopsOrUnderflows : atExec.sp.val = 0 ∧ (15 : Fin 16).val + 1 = (State.sp { atExec with sp := 16 }).val ∧
    (0 : Fin 16).val + 1 = (State.sp { atExec with sp := 1 }).val := by decide
theorem test_witness_CallPushesOrOverflows : (State.sp { atExec with sp := 16 }).val = 16 ∧ (0 : Fin 16).val = atExec.sp.val ∧
    (15 : Fin 16).val = (State.sp { atExec with sp := 15 }).val := by decide
theorem test_witness_CallThenReturnResumesAfterCall : (15 : Fin 16).val = (State.sp { atExec with sp := 15 }).val := by decide
theorem test_witness_RegisterSkipsAddTwoToPc : (0x1 : Nibble) ≠ 0x0 ∧ (0xF : Nibble) ≠ 0x0 := by decide

/-- For AddReg, SubReg, SubnReg, ShrReg and ShlReg: a destination that is not VF, and one that is. -/
theorem test_witness_VF_destinations : (14 : RegIdx) ≠ VF ∧ (0 : RegIdx) ≠ VF ∧ (15 : RegIdx) = VF := by decide
theorem test_witness_RandomMasksOneDraw : (injected [] [] [0xAB, 1]).oracle.randomBytes = 0xAB :: [1] ∧
    atExec.oracle.randomBytes = [] := by decide
theorem test_witness_LoadFontAddressesGlyphOrFails : ((atExec.setV 0 15).getV 0).toNat ≤ 15 ∧ (atExec.getV 0).toNat ≤ 15 ∧
    ((atExec.setV 0 16).getV 0).toNat > 15 ∧ ((atExec.setV 0 255).getV 0).toNat > 15 := by decide

/-- For StoreBcd (x = 0) and StoreRegisters (x = 15): the last good I, the first bad one, and both edges of protection. -/
theorem test_witness_Stores : (storing 255 0xFFD true).i.toNat + 2 < 4096 ∧
    ¬ ((storing 255 0xFFD true).wp = true ∧ (storing 255 0xFFD true).i.toNat ≤ 0x1FF) ∧
    (storing 255 0xFF0 true).i.toNat + (15 : RegIdx).val < 4096 ∧
    ¬ ((storing 255 0x200 true).wp = true ∧ (storing 255 0x200 true).i.toNat ≤ 0x1FF) ∧
    (storing 255 0xFFE false).i.toNat + 2 ≥ 4096 ∧ (storing 255 0xFF1 false).i.toNat + (15 : RegIdx).val ≥ 4096 ∧
    (storing 255 0x1FF true).wp = true ∧ (storing 255 0x1FF true).i.toNat ≤ 0x1FF := by decide
theorem test_witness_LoadRegistersReadsOrFails : (storing 0 0xFF0 true).i.toNat + (15 : RegIdx).val < 4096 ∧
    (storing 0 0xFFF true).i.toNat + (0 : RegIdx).val < 4096 ∧ (storing 0 0x1000 true).i.toNat + (0 : RegIdx).val ≥ 4096 := by decide
theorem test_witness_LoadAfterStoreRestoresRegisters : ∃ t, (storing 7 0xFFF true).params.loadStoreIncrementsI = false ∧
    exec (.storeRegisters 0) (storing 7 0xFFF true) = .next t ∧ t.fault = (storing 7 0xFFF true).fault ∧
    (storing 7 0xFFF true).i.toNat + (0 : RegIdx).val < 4096 ∧
    ¬ ((storing 7 0xFFF true).wp = true ∧ (storing 7 0xFFF true).i.toNat ≤ 0x1FF) :=
  ⟨_, by decide, rfl, by decide, by decide, by decide⟩
theorem test_witness_DrawInvertsCoveredCells : 0 < (0x1 : Nibble).toNat ∧ (storing 0 0xFFF false).i.toNat + (0x1 : Nibble).toNat ≤ 4096 ∧
    0 < (0xF : Nibble).toNat ∧ (storing 0 0xFF1 false).i.toNat + (0xF : Nibble).toNat ≤ 4096 := by decide

/-- A covered cell that is on (row 31, column 0, reached by wrapping), and a sprite that covers nothing. -/
theorem test_witness_DrawInvertsCoveredCells_collision :
    (∃ sx sy, SpriteCovers 63 31 1 (fun _ => 0x40) sx sy ∧ (atExec.fb.set 0 31 true).get sx sy = true) ∧
    ¬ ∃ sx sy, SpriteCovers 63 31 1 (fun _ => 0x00) sx sy ∧ (atExec.fb.set 0 31 true).get sx sy = true :=
  ⟨⟨0, 31, ⟨0, 1, by decide⟩, by decide⟩, fun ⟨_, _, ⟨_, _, _, _, _, _, h⟩, _⟩ => by simp at h⟩
theorem test_witness_DrawFailsOnEmptyOrOutOfBounds : 0 < (0x1 : Nibble).toNat ∧
    (storing 0 0x1000 false).i.toNat + (0x1 : Nibble).toNat > 4096 ∧
    (storing 0 0xFF2 false).i.toNat + (0xF : Nibble).toNat > 4096 := by decide
theorem test_witness_DrawingTwiceRestoresDisplay : ∃ r, drawSprite atExec.fb 62 0 [0xFF] = .ok r := ⟨_, rfl⟩
theorem test_witness_HostPixelAccessIsBounded : ((0 : Int) ≤ 63 ∧ (63 : Int) < 64 ∧ (0 : Int) ≤ 31 ∧ (31 : Int) < 32) ∧
    ¬ ((0 : Int) ≤ 64 ∧ (64 : Int) < 64 ∧ (0 : Int) ≤ 0 ∧ (0 : Int) < 32) ∧
    ¬ ((0 : Int) ≤ 0 ∧ (0 : Int) < 64 ∧ (0 : Int) ≤ -1 ∧ (-1 : Int) < 32) := by decide
theorem test_witness_KeySkipsAskForTheLowNibble : (injected [true, false] [] []).oracle.keyStates = true :: [false] ∧
    atExec.oracle.keyStates = [] ∧ (10 : Key).val = ((atExec.setV 0 0x1A).getV 0).toNat % 16 := by decide

theorem test_witness_WaitKeyTakesKeyOrWaits : (injected [] [some 15, none] []).oracle.keyPresses = some 15 :: [none] ∧
    (injected [] [none] []).oracle.keyPresses = none :: [] ∧ atExec.oracle.keyPresses = [] := by decide
theorem test_witness_WaitingCyclePollsForKey : let s : State := { injected [] [some 0] [] with execState := .waitingForKey 15 }
    s.fault = none ∧ s.execState = .waitingForKey 15 ∧ s.oracle.keyPresses = some 0 :: [] ∧
    (State.oracle { atExec with execState := .waitingForKey 15 }).keyPresses = [] := by decide
theorem test_witness_StepRunsTheDecodedInstruction :
    let s : State := { State.reset with pc := 0xFFE }.withBytes 0xFFE [0x60, 0x01]
    s.fault = none ∧ s.execState = .running ∧ s.pc.toNat ≤ 0xFFE ∧
    decode s.params.zeroFamilyMatch (wordOfBytes (s.mem.get s.pc.toNat) (s.mem.get (s.pc.toNat + 1))) = .ok (.loadImm 0 1) ∧
    s.schedule = [] ∧ (State.schedule { s with schedule := [.executeCycle, .reset] }) = .executeCycle :: [.reset] := by decide
theorem test_witness_FetchOutsideMemoryFails : let s : State := { State.reset with pc := 0xFFF }
    s.fault = none ∧ s.execState = .running ∧ s.pc.toNat > 0xFFE := by decide
theorem test_witness_IllegalOpcodeFailsCycle : let s : State := { State.reset with pc := 0xFFE }.withBytes 0xFFE [0xFF, 0xFF]
    s.fault = none ∧ s.execState = .running ∧ s.pc.toNat ≤ 0xFFE ∧ ¬ ∃ r ∈ opcodeMap s.params.zeroFamilyMatch,
      wordOfBytes (s.mem.get s.pc.toNat) (s.mem.get (s.pc.toNat + 1)) &&& r.mask = r.value := by decide
theorem test_witness_FailedInstructionHasNoOtherEffect : ∃ t, exec .ret atExec = .next t ∧ t.fault ≠ atExec.fault :=
  ⟨_, rfl, by decide⟩
theorem test_witness_InstructionsWriteOnlyTheirTableRow :
    ∃ t, exec (.storeBcd 0) (storing 255 0x200 true) = .next t ∧ t.fault = (storing 255 0x200 true).fault := ⟨_, rfl, by decide⟩
theorem test_witness_FaultedMachineStopsButTicks : let s : State := { State.reset with fault := some .stackOverflow }
    s.fault = some .stackOverflow ∧ s.schedule = [] ∧
    (State.schedule { s with schedule := [.executeCycle] }) = .executeCycle :: [] ∧
    (State.schedule { s with schedule := [.updateTimers] }) = .updateTimers :: [] ∧
    (State.schedule { s with schedule := [.reset, .readByte 0] }) = .reset :: [.readByte 0] ∧
    HostCall.reset ≠ .executeCycle ∧ HostCall.memoryReset ≠ .executeCycle := by decide

/-- A state at the bound: PC = 0x10FE and a used stack entry of 0x1000. -/
theorem test_witness_StepKeepsPcBounded : State.reset.PcBounded ∧
    (State.PcBounded { State.reset with pc := 0x10FE, sp := 1, stack := State.reset.stack.set 0 0x1000 }) ∧
    ∃ t, step { State.reset with pc := 0x10FE, sp := 1, stack := State.reset.stack.set 0 0x1000 } = .next t :=
  ⟨⟨by decide, by decide⟩, ⟨by decide, by decide⟩, ⟨_, rfl⟩⟩
theorem test_witness_StepKeepsMemoryCanonical : State.reset.mem.wf ∧ (State.reset.withBytes 0x050 [0xF0, 0x91, 0x00]).mem.wf ∧
    ∃ t, step (State.reset.withBytes 0x050 [0xF0, 0x91, 0x00]) = .next t := ⟨by decide, by decide, ⟨_, rfl⟩⟩
theorem test_witness_CanonicalMemoriesAreDeterminedByReads :
    ((State.reset.mem.poke 0x300 1).poke 0x200 2).wf ∧ ((State.reset.mem.poke 0x200 2).poke 0x300 1).wf ∧
    ((State.reset.mem.poke 0x300 1).poke 0x200 2).font = ((State.reset.mem.poke 0x200 2).poke 0x300 1).font ∧
    ∀ a < 4096, ((State.reset.mem.poke 0x300 1).poke 0x200 2).get a = ((State.reset.mem.poke 0x200 2).poke 0x300 1).get a := by
  refine ⟨by decide, by decide, by decide, fun a _ => ?_⟩
  simp only [poke_get]
  split <;> split <;> simp_all
theorem test_witness_StepKeepsConfiguration : ∃ t, step { State.reset with wp := true, schedule := [.reset] } = .next t := ⟨_, rfl⟩
theorem test_witness_StackAboveSpIsUnobservable :
    AgreeBelowSp { State.reset with sp := 1 } { State.reset with sp := 1, stack := State.reset.stack.set 1 0xABC } ∧
    ¬ State.reset.stack = State.reset.stack.set 1 0xABC := ⟨⟨rfl, by decide⟩, by decide⟩
theorem test_witness_ByteAccessChecksThenTransfers : ¬ ((0 : Int) ≤ -1 ∧ (-1 : Int) < 4096) ∧
    ¬ ((0 : Int) ≤ 4096 ∧ (4096 : Int) < 4096) ∧ ((0 : Int) ≤ 4095 ∧ (4095 : Int) < 4096) ∧
    ((0 : Int) ≤ 0x1FF ∧ (0x1FF : Int) ≤ 0x1FF) ∧ ¬ (true = true ∧ (0x200 : Int) ≤ 0x1FF) := by decide
theorem test_witness_WordAccessIsBigEndianAllOrNothing : ¬ ((0 : Int) ≤ 4095 ∧ (4095 : Int) + 1 < 4096) ∧
    ¬ ((0 : Int) ≤ -1 ∧ (-1 : Int) + 1 < 4096) ∧ ((0 : Int) ≤ 4094 ∧ (4094 : Int) + 1 < 4096) ∧
    ((0 : Int) ≤ 0x1FF ∧ (0x1FF : Int) ≤ 0x1FF) ∧ ¬ (true = true ∧ (0x200 : Int) ≤ 0x1FF) := by decide
theorem test_witness_LoadRomCopiesWholePayload : (List.replicate 3585 (0 : Byte)).length > 3584 ∧
    (List.replicate 3584 (0 : Byte)).length ≤ 3584 ∧ ([] : List Byte).length ≤ 3584 := by
  rw [List.length_replicate, List.length_replicate]; decide
theorem test_witness_FailedHostWriteChangesNothing : let s : State := { State.reset with wp := true }
    s.mem.writeByte s.wp 0x1FF 7 = .error (.writeProtected 0x1FF) ∧
    s.mem.writeWord s.wp 0xFFF 7 = .error (.wordOutOfBounds 0xFFF) ∧
    s.mem.loadRom (List.replicate 3585 0) = .error (.romTooLarge 3585) :=
  ⟨rfl, rfl, test_host_loadRom_too_large _ (List.length_replicate ..)⟩
theorem test_witness_FontGlyphAddressOrInvalidDigit : ((0 : Int) ≤ 0 ∧ (0 : Int) ≤ 15) ∧ ((0 : Int) ≤ 15 ∧ (15 : Int) ≤ 15) ∧
    ¬ ((0 : Int) ≤ 16 ∧ (16 : Int) ≤ 15) ∧ ¬ ((0 : Int) ≤ -1 ∧ (-1 : Int) ≤ 15) := by decide
theorem test_witness_MemoryResetZeroesAndRestoresFont : (0 < 80 ∧ 79 < 80) ∧ ¬ (0x050 ≤ 0x04F ∧ 0x04F < 0x0A0) ∧
    ¬ (0x050 ≤ 0x0A0 ∧ 0x0A0 < 0x0A0) ∧ (State.reset.withBytes 0x04F [1, 2]).mem.reset.bytesFrom 0x04F 2 = [0, 0xF0] ∧
    (State.reset.withBytes 0x09F [1, 2]).mem.reset.bytesFrom 0x09F 2 = [0x80, 0] := by decide

end Sys2Proof.Tests
end

section
/-! The configuration of 00_scope.md R12 and 10_state.md R40 (WP, the parameters, FONT) is fixed at construction: every
instruction, every cycle and every host call keeps it. -/

namespace Sys2Proof.Machine

/-- `t` is configured as `s`: the same WP, parameters and FONT. -/
def State.SameConfig (s t : State) : Prop :=
  t.wp = s.wp ∧ t.params = s.params ∧ t.mem.font = s.mem.font

/-! ### The operations that write memory or poll the Input -/

/-- The store at I of Fx33 and Fx55 changes only listed bytes of memory, and FONT is not one of them. -/
theorem storeAtI_sameConfig (s : State) (l : List Byte) :
    s.SameConfig { s with mem := s.mem.storeBytes (s.ea 0) l } :=
  ⟨rfl, rfl, storeBytes_font ..⟩

theorem stepIndex_sameConfig {s t : State} (h : s.SameConfig t) (x : RegIdx) : s.SameConfig (t.stepIndex x) := by
  simpa [State.SameConfig] using h

theorem fail_sameConfig (s : State) (e : CoreError) : s.SameConfig (s.fail e) := ⟨rfl, rfl, rfl⟩

theorem pollKey_sameConfig (s : State) (r : RegIdx) : s.SameConfig (s.pollKey r) := by
  rcases pollKey_cases s r with ⟨k, -, h⟩ | ⟨-, h⟩ <;> simp [h, State.SameConfig]

/-! ### Instructions and cycles -/

/-- No instruction changes the configuration, failing or not. -/
theorem exec_sameConfig {i : Instr} {s t : State} (h : exec i s = .next t) : s.SameConfig t := by
  cases i
  case ret =>
    rcases execRet_cases h with hp | ⟨-, rfl⟩
    · obtain ⟨ht, -⟩ := pop_ok hp
      rw [ht]
      exact ⟨rfl, rfl, rfl⟩
    · exact fail_sameConfig ..
  case call nnn =>
    rcases execCall_cases h with ⟨p, hp, rfl⟩ | ⟨-, rfl⟩
    · obtain ⟨-, hp, -⟩ := push_ok hp
      rw [hp]
      exact ⟨rfl, rfl, rfl⟩
    · exact fail_sameConfig ..
  case loadFont x =>
    rcases execLoadFont_cases h with ⟨w, -, rfl⟩ | ⟨e, -, rfl⟩
    · exact ⟨rfl, rfl, rfl⟩
    · exact fail_sameConfig ..
  case storeBcd x =>
    rcases execStoreBcd_cases h with ⟨-, rfl⟩ | ⟨e, -, rfl⟩
    · exact storeAtI_sameConfig ..
    · exact fail_sameConfig ..
  case storeRegisters x =>
    rcases execStoreRegisters_cases h with ⟨-, rfl⟩ | ⟨e, -, rfl⟩
    · exact stepIndex_sameConfig (storeAtI_sameConfig ..) x
    · exact fail_sameConfig ..
  case loadRegisters x =>
    rcases execLoadRegisters_cases h with ⟨-, rfl⟩ | ⟨e, -, rfl⟩
    · exact stepIndex_sameConfig ⟨rfl, rfl, rfl⟩ x
    · exact fail_sameConfig ..
  case draw x y n =>
    rcases execDraw_cases h with ⟨r, -, -, rfl⟩ | ⟨e, -, rfl⟩ | ⟨e, -, -, rfl⟩
    · exact ⟨rfl, rfl, rfl⟩
    · exact fail_sameConfig ..
    · exact fail_sameConfig ..
  case waitKey x =>
    rcases execWaitKey_cases h with ⟨k, -, rfl⟩ | ⟨-, rfl⟩ <;> simp [State.SameConfig]
  -- The other meanings cannot fail: each is one update of registers, I, PC, timers, FB or the oracle.
  all_goals
    cases h
    simp [State.SameConfig]

theorem runFetched_sameConfig {s t : State} (h : s.runFetched = .next t) : s.SameConfig t := by
  rcases runFetched_cases s with ⟨i, -, hr⟩ | ⟨op, -, hr⟩ <;> rw [hr] at h
  · exact exec_sameConfig (s := s.advance) h
  · cases h
    exact ⟨rfl, rfl, rfl⟩

theorem cycle_sameConfig {s t : State} (h : cycle s = .next t) : s.SameConfig t := by
  rcases cycle_cases s with ⟨e, -, hc⟩ | ⟨r, -, -, hc⟩ | ⟨-, -, -, hc⟩ | ⟨-, -, -, hc⟩ <;> rw [hc] at h
  · cases h
  · cases h
    exact pollKey_sameConfig s r
  · cases h
    exact ⟨rfl, rfl, rfl⟩
  · exact runFetched_sameConfig h

/-- The ticks after a cycle come on top of that cycle's next state. -/
theorem withFreeTicks_next {r : Result} {t : State} (h : withFreeTicks r = .next t) :
    ∃ u, r = .next u ∧ t = u.freeTicks := by
  cases r with
  | next u => exact ⟨u, rfl, by simpa [withFreeTicks] using h.symm⟩
  | fault e => cases h
  | refused e => cases h

theorem freeTicks_sameConfig {s t : State} (h : s.SameConfig t) : s.SameConfig t.freeTicks := h

/-! ### Host calls -/

theorem serveWrite_sameConfig {s : State} {r : Except CoreError Memory} (h : ∀ m, r = .ok m → m.font = s.mem.font) :
    s.SameConfig (s.serveWrite r) := by
  rcases serveWrite_cases s r with ⟨m, hm, hs⟩ | ⟨e, -, hs⟩ <;> rw [hs]
  · exact ⟨rfl, rfl, h m hm⟩
  · exact ⟨rfl, rfl, rfl⟩

theorem serveRead_sameConfig {α : Type} (s : State) (wrap : α → HostAnswer) (r : Except CoreError α) :
    s.SameConfig (s.serveRead wrap r) := by
  obtain ⟨a, ha⟩ := serveRead_cases s wrap r
  rw [ha]
  exact ⟨rfl, rfl, rfl⟩

/-- No host call changes the configuration. The machine reset and the memory's own reset restore FONT and keep it. -/
theorem serve_sameConfig (s : State) (c : HostCall) : s.SameConfig (s.serve c) := by
  cases c
  case loadRom l =>
    refine serveWrite_sameConfig fun m hm => ?_
    obtain ⟨-, rfl⟩ := loadRom_ok hm
    exact storeBytes_font ..
  case writeByte a b =>
    refine serveWrite_sameConfig fun m hm => ?_
    obtain ⟨-, -, -, rfl⟩ := writeByte_ok hm
    exact poke_font ..
  case writeWord a w =>
    refine serveWrite_sameConfig fun m hm => ?_
    obtain ⟨-, -, -, rfl⟩ := writeWord_ok hm
    exact storeBytes_font ..
  case readByte a => exact serveRead_sameConfig ..
  case readWord a => exact serveRead_sameConfig ..
  case fontGlyphAddress d => exact serveRead_sameConfig ..
  case decodeOpcode op =>
    simp only [State.serve]
    split <;> exact ⟨rfl, rfl, rfl⟩
  all_goals exact ⟨rfl, rfl, rfl⟩

/-! ### The step -/

/-- Settles O50: each of the three things a step can be (a cycle with free ticks, a scheduled cycle, another host call)
keeps the configuration. -/
theorem stepKeepsConfiguration : Obligations.StepKeepsConfiguration := by
  intro s t h
  rcases step_cases s with ⟨-, hs⟩ | ⟨rest, -, hs⟩ | ⟨call, rest, -, -, hs⟩ <;> rw [hs] at h
  · obtain ⟨u, hu, rfl⟩ := withFreeTicks_next h
    exact freeTicks_sameConfig (cycle_sameConfig hu)
  · exact cycle_sameConfig (s := { s with schedule := rest }) h
  · cases h
    exact serve_sameConfig { s with schedule := rest } call

end Sys2Proof.Machine
end

section
/-! The call stack, the cycle and the step as equations, one for each case of the definition. -/

namespace Sys2Proof.Machine

/-! ### The call stack (10_state.md R29) -/

theorem pop_eq_error {s : State} (h : s.sp.val = 0) : s.pop = .error .stackUnderflow := dif_pos h

theorem pop_eq_ok {s : State} (k : Fin 16) (h : k.val + 1 = s.sp.val) :
    s.pop = .ok { s with sp := k.castSucc, pc := s.stack[k] } := by
  have hk : s.sp.val - 1 = k.val := by omega
  unfold State.pop
  rw [dif_neg (by omega)]
  simp only [hk]
  rfl

theorem push_eq_error {s : State} (h : s.sp.val = 16) : s.push = .error .stackOverflow := dif_neg (by omega)

theorem push_eq_ok {s : State} (k : Fin 16) (h : k.val = s.sp.val) :
    s.push = .ok { s with stack := s.stack.set k s.pc, sp := k.succ } := by
  unfold State.push
  rw [dif_pos (by omega)]
  simp only [← h]
  rfl

/-- Return finds the stack empty or a newest entry. -/
theorem sp_zero_or_succ (s : State) : s.sp.val = 0 ∨ ∃ k : Fin 16, k.val + 1 = s.sp.val := by
  have := s.sp.isLt
  by_cases h : s.sp.val = 0
  · exact .inl h
  · exact .inr ⟨⟨s.sp.val - 1, by omega⟩, by simp only; omega⟩

/-- Call finds the stack full or a free slot. -/
theorem sp_full_or_lt (s : State) : s.sp.val = 16 ∨ ∃ k : Fin 16, k.val = s.sp.val := by
  have := s.sp.isLt
  by_cases h : s.sp.val = 16
  · exact .inl h
  · exact .inr ⟨⟨s.sp.val, by omega⟩, rfl⟩

/-! ### The cycle (40_cycle.md R120) and the step (R122) -/

theorem runFetched_of_decode_ok {s : State} {i : Instr}
    (h : decode s.params.zeroFamilyMatch s.fetchOpcode = .ok i) : s.runFetched = exec i s.advance := by
  simp [State.runFetched, h]

theorem runFetched_of_decode_error {s : State} {op : Word}
    (h : decode s.params.zeroFamilyMatch s.fetchOpcode = .error (.unknownInstruction op)) :
    s.runFetched = .next (s.advance.fail (.unknownInstruction op)) := by
  simp [State.runFetched, h]

theorem cycle_of_fault {s : State} {e : CoreError} (h : s.fault = some e) : cycle s = .fault (.machineFaulted e) := by
  simp [cycle, h]

theorem cycle_of_waiting {s : State} {r : RegIdx} (hf : s.fault = none) (he : s.execState = .waitingForKey r) :
    cycle s = .next (s.pollKey r) := by
  simp [cycle, hf, he]

theorem cycle_of_not_fetchable {s : State} (hf : s.fault = none) (he : s.execState = .running)
    (h : s.fetchable = false) : cycle s = .next s.failFetch := by
  simp [cycle, hf, he, h]

theorem cycle_of_fetchable {s : State} (hf : s.fault = none) (he : s.execState = .running)
    (h : s.fetchable = true) : cycle s = s.runFetched := by
  simp [cycle, hf, he, h]

theorem step_of_schedule_nil {s : State} (h : s.schedule = []) : step s = withFreeTicks (cycle s) := by
  simp [step, h]

theorem step_of_executeCycle {s : State} {rest : List HostCall} (h : s.schedule = .executeCycle :: rest) :
    step s = cycle { s with schedule := rest } := by
  simp [step, h]

theorem step_of_hostCall {s : State} {call : HostCall} {rest : List HostCall} (h : s.schedule = call :: rest)
    (hc : call ≠ .executeCycle) : step s = .next ({ s with schedule := rest }.serve call) := by
  simp [step, h]

end Sys2Proof.Machine
end

section
/-! Who writes what (10_state.md R43): the frame of each operation, and from these the frame of every instruction. -/

namespace Sys2Proof.Machine

/-! ### Frames in general -/

theorem OnlyChanges.refl (p : Field → Prop) (s : State) : OnlyChanges p s s := by
  intro f _
  cases f <;> rfl

theorem OnlyChanges.mono {p q : Field → Prop} {s t : State} (h : OnlyChanges p s t) (hpq : ∀ f, p f → q f) :
    OnlyChanges q s t :=
  fun f hf => h f fun hp => hf (hpq f hp)

theorem Unchanged.trans {s t u : State} {f : Field} (h₁ : Unchanged s t f) (h₂ : Unchanged t u f) :
    Unchanged s u f := by
  cases f <;> exact Eq.trans h₂ h₁

/-- The second change may be framed by a set of parts that depends on the state in the middle. -/
theorem OnlyChanges.trans {p q : Field → Prop} {s t u : State} (h₁ : OnlyChanges p s t) (h₂ : OnlyChanges q t u) :
    OnlyChanges (fun f => p f ∨ q f) s u := by
  intro f hf
  obtain ⟨hp, hq⟩ := not_or.mp hf
  exact (h₁ f hp).trans (h₂ f hq)

/-! ### The frame of each operation -/

theorem setV_onlyChanges (s : State) (x : RegIdx) (b : Byte) : OnlyChanges (fun f => f = .v x) s (s.setV x b) := by
  intro f hf
  cases f
  case v r =>
    have hr : r ≠ x := fun e => hf (e ▸ rfl)
    simp [Unchanged, hr]
  all_goals rfl

theorem setResultThenFlag_onlyChanges (s : State) (x : RegIdx) (a b : Byte) :
    OnlyChanges (fun f => f = .v x ∨ f = .v VF) s (s.setResultThenFlag x a b) :=
  (setV_onlyChanges s x a).trans (setV_onlyChanges (s.setV x a) VF b)

theorem setShift_onlyChanges (s : State) (x : RegIdx) (flag shift : Byte → Byte) :
    OnlyChanges (fun f => f = .v x ∨ f = .v VF) s (s.setShift x flag shift) := by
  unfold State.setShift
  split
  · exact ((setV_onlyChanges s VF _).trans (setV_onlyChanges _ x _)).mono fun f => Or.symm
  · exact setResultThenFlag_onlyChanges _ _ _ _

theorem setRegistersUpTo_onlyChanges (s : State) (x : RegIdx) (l : List Byte) :
    OnlyChanges (fun f => ∃ k ≤ x, f = .v k) s (s.setRegistersUpTo x l) := by
  intro f hf
  cases f
  case v r =>
    have hr : ¬ r ≤ x := fun hle => hf ⟨r, hle, rfl⟩
    simp [Unchanged, hr]
  all_goals simp [Unchanged]

theorem jumpTo_onlyChanges (s : State) (w : Word) : OnlyChanges (fun f => f = .pc) s (s.jumpTo w) := by
  intro f hf
  cases f
  case pc => exact absurd rfl hf
  all_goals rfl

theorem skipIf_onlyChanges (s : State) (c : Bool) : OnlyChanges (fun f => f = .pc) s (s.skipIf c) := by
  cases c
  · exact OnlyChanges.refl _ _
  · exact jumpTo_onlyChanges s (s.pc + 2)

theorem setI_onlyChanges (s : State) (w : Word) : OnlyChanges (fun f => f = .i) s (s.setI w) := by
  intro f hf
  cases f
  case i => exact absurd rfl hf
  all_goals rfl

theorem stepIndex_onlyChanges (s : State) (x : RegIdx) :
    OnlyChanges (fun f => s.params.loadStoreIncrementsI = true ∧ f = .i) s (s.stepIndex x) := by
  unfold State.stepIndex
  split
  · exact (setI_onlyChanges _ _).mono fun f hf => ⟨by assumption, hf⟩
  · exact OnlyChanges.refl _ _

theorem storeAtI_onlyChanges (s : State) (l : List Byte) :
    OnlyChanges (fun f => ∃ k < l.length, f = .mem (s.ea k)) s { s with mem := s.mem.storeBytes (s.ea 0) l } := by
  intro f hf
  cases f
  case mem a =>
    refine storeBytes_get_outside _ _ _ _ fun ha => hf ⟨a - s.ea 0, by omega, ?_⟩
    simp only [State.ea, Field.mem.injEq] at ha ⊢
    omega
  case font => exact storeBytes_font ..
  all_goals rfl

theorem setFb_onlyChanges (s : State) (fb : FrameBuffer) :
    OnlyChanges (fun f => ∃ x y, f = .pixel x y) s { s with fb := fb } := by
  intro f hf
  cases f
  case pixel x y => exact absurd ⟨x, y, rfl⟩ hf
  all_goals rfl

theorem randomByte_onlyChanges (s : State) : OnlyChanges (fun f => f = .oracle) s s.randomByte.2 := by
  intro f hf
  cases f
  case oracle => exact absurd rfl hf
  all_goals simp [Unchanged]

theorem isPressed_onlyChanges (s : State) (k : Key) : OnlyChanges (fun f => f = .oracle) s (s.isPressed k).2 := by
  intro f hf
  cases f
  case oracle => exact absurd rfl hf
  all_goals simp [Unchanged]

theorem takeKey_onlyChanges (s : State) : OnlyChanges (fun f => f = .oracle) s s.takeKey.2 := by
  intro f hf
  cases f
  case oracle => exact absurd rfl hf
  all_goals simp [Unchanged]

theorem setExecState_onlyChanges (s : State) (e : ExecState) :
    OnlyChanges (fun f => f = .execState) s { s with execState := e } := by
  intro f hf
  cases f
  case execState => exact absurd rfl hf
  all_goals rfl

theorem setDt_onlyChanges (s : State) (b : Byte) : OnlyChanges (fun f => f = .dt) s { s with dt := b } := by
  intro f hf
  cases f
  case dt => exact absurd rfl hf
  all_goals rfl

theorem setSt_onlyChanges (s : State) (b : Byte) : OnlyChanges (fun f => f = .st) s { s with st := b } := by
  intro f hf
  cases f
  case st => exact absurd rfl hf
  all_goals rfl

theorem pop_onlyChanges {s t : State} (h : s.pop = .ok t) : OnlyChanges (fun f => f = .pc ∨ f = .sp) s t := by
  obtain ⟨ht, -⟩ := pop_ok h
  rw [ht]
  intro f hf
  cases f
  case pc => exact absurd (.inl rfl) hf
  case sp => exact absurd (.inr rfl) hf
  all_goals rfl

theorem push_onlyChanges {s t : State} (h : s.push = .ok t) :
    OnlyChanges (fun f => f = .sp ∨ ∃ k : Fin 16, k.val = s.sp.val ∧ f = .stack k) s t := by
  obtain ⟨-, ht, -, hstack⟩ := push_ok h
  intro f hf
  cases f
  case sp => exact absurd (.inl rfl) hf
  case stack k =>
    have hk : k.val ≠ s.sp.val := fun e => hf (.inr ⟨k, e, rfl⟩)
    exact (hstack k).trans (if_neg hk)
  all_goals
    rw [ht]
    rfl

theorem fail_onlyChanges (s : State) (e : CoreError) : OnlyChanges (fun f => f = .fault) s (s.fail e) := by
  intro f hf
  cases f
  case fault => exact absurd rfl hf
  all_goals rfl

theorem answer_onlyChanges (s : State) (a : HostAnswer) : OnlyChanges (fun f => f = .hostAnswer) s (s.answer a) := by
  intro f hf
  cases f
  case hostAnswer => exact absurd rfl hf
  all_goals rfl

/-! ### Every instruction -/

/-- What each instruction can do: write what its row of the table of R43 names, or fail and write the Fault record. -/
theorem exec_onlyChanges_or_fail {i : Instr} {s t : State} (h : exec i s = .next t) :
    OnlyChanges (writeSet i s) s t ∨ ∃ e, t = s.fail e := by
  cases i
  case ret =>
    rcases execRet_cases h with hp | ⟨-, ht⟩
    · exact .inl (pop_onlyChanges hp)
    · exact .inr ⟨_, ht⟩
  case call nnn =>
    rcases execCall_cases h with ⟨p, hp, rfl⟩ | ⟨-, ht⟩
    · refine .inl (((push_onlyChanges hp).trans (jumpTo_onlyChanges p _)).mono fun f hf => ?_)
      exact hf.symm
    · exact .inr ⟨_, ht⟩
  case loadFont x =>
    rcases execLoadFont_cases h with ⟨w, -, rfl⟩ | ⟨e, -, ht⟩
    · exact .inl (setI_onlyChanges s w)
    · exact .inr ⟨_, ht⟩
  case storeBcd x =>
    rcases execStoreBcd_cases h with ⟨-, rfl⟩ | ⟨e, -, ht⟩
    · exact .inl (storeAtI_onlyChanges s (bcdDigits (s.getV x)))
    · exact .inr ⟨_, ht⟩
  case storeRegisters x =>
    rcases execStoreRegisters_cases h with ⟨-, rfl⟩ | ⟨e, -, ht⟩
    · refine .inl (((storeAtI_onlyChanges s _).trans (stepIndex_onlyChanges _ x)).mono fun f hf => ?_)
      simpa only [writeSet, registersUpTo_length, Nat.lt_succ_iff] using hf
    · exact .inr ⟨_, ht⟩
  case loadRegisters x =>
    rcases execLoadRegisters_cases h with ⟨-, rfl⟩ | ⟨e, -, ht⟩
    · exact .inl ((setRegistersUpTo_onlyChanges s x _).trans (stepIndex_onlyChanges (s.setRegistersUpTo x _) x))
    · exact .inr ⟨_, ht⟩
  case draw x y n =>
    rcases execDraw_cases h with ⟨r, -, -, rfl⟩ | ⟨e, -, ht⟩ | ⟨e, -, -, ht⟩
    · exact .inl (((setFb_onlyChanges s r.1).trans (setV_onlyChanges _ VF _)).mono fun f => Or.symm)
    · exact .inr ⟨_, ht⟩
    · exact .inr ⟨_, ht⟩
  case waitKey x =>
    left
    rcases execWaitKey_cases h with ⟨k, -, rfl⟩ | ⟨-, rfl⟩
    · refine ((takeKey_onlyChanges s).trans (setV_onlyChanges _ x _)).mono fun f hf => ?_
      exact hf.elim (fun ho => .inr (.inr ho)) .inl
    · refine ((takeKey_onlyChanges s).trans (setExecState_onlyChanges _ _)).mono fun f hf => ?_
      exact .inr hf.symm
  -- The other meanings cannot fail.
  all_goals
    left
    cases h
  case clear => exact setFb_onlyChanges _ _
  case jump | jumpWithV0 => exact jumpTo_onlyChanges _ _
  case skipEqualImm | skipNotEqualImm | skipEqualReg | skipNotEqualReg => exact skipIf_onlyChanges _ _
  case loadImm | addImm | loadReg | orReg | andReg | xorReg | loadDelay => exact setV_onlyChanges _ _ _
  case addReg | subReg | subnReg => exact setResultThenFlag_onlyChanges _ _ _ _
  case shrReg | shlReg => exact setShift_onlyChanges _ _ _ _
  case setIndex | addIndex => exact setI_onlyChanges _ _
  case random => exact ((randomByte_onlyChanges s).trans (setV_onlyChanges _ _ _)).mono fun f => Or.symm
  case skipKeyPressed | skipKeyNotPressed =>
    exact ((isPressed_onlyChanges s _).trans (skipIf_onlyChanges _ _)).mono fun f => Or.symm
  case setDelay => exact setDt_onlyChanges _ _
  case setSound => exact setSt_onlyChanges _ _

/-- Settles O44: an instruction that fails without changing the Fault record changes nothing at all. -/
theorem instructionsWriteOnlyTheirTableRow : Obligations.InstructionsWriteOnlyTheirTableRow := by
  intro i s t h hfault
  rcases exec_onlyChanges_or_fail h with hf | ⟨e, rfl⟩
  · exact hf
  · intro f _
    by_cases hf : f = .fault
    · subst hf
      exact hfault
    · exact fail_onlyChanges s e f hf

/-- Settles O43: an instruction's meaning is one next state or completes one checked operation, and either way it
answers a next state. -/
theorem everyInstructionAnswersNextState : Obligations.EveryInstructionAnswersNextState := by
  intro i s
  cases i
  case ret | call | draw | loadFont | storeBcd | storeRegisters | loadRegisters => exact complete_isNext ..
  all_goals exact ⟨_, rfl⟩

end Sys2Proof.Machine
end

section
/-! The values after construction and machine reset (10_state.md R41), and the host's calls and the tick beside a
failure: a failing host write (R38, R53, R58, R61), and a Faulted machine (40_cycle.md R121). -/

namespace Sys2Proof.Machine

/-! ### Construction and machine reset -/

/-- The constructed state is its own machine reset, so whatever a reset establishes holds after construction. -/
theorem construct_machineReset (wp : Bool) (params : Params) (font : Vector Byte fontSize) :
    (State.construct wp params font).machineReset = State.construct wp params font := rfl

theorem blank_font (m : Memory) (k : Nat) (h : k < 80) : m.blank (0x050 + k) = m.font[k] := by
  have hin : fontBase ≤ 0x050 + k ∧ 0x050 + k < fontBase + fontSize := ⟨by simp, by simpa using h⟩
  simp [Memory.blank, hin]

theorem blank_outside_font (m : Memory) (a : Nat) (h : ¬ (0x050 ≤ a ∧ a < 0x0A0)) : m.blank a = 0 :=
  dif_neg h

theorem machineReset_hasInitialValues (s : State) : s.machineReset.HasInitialValues := by
  refine ⟨fun r => ?_, rfl, rfl, rfl, fun k => ?_, rfl, rfl, rfl, rfl, fun x y => ?_, fun k hk => ?_,
    fun a ha => ?_⟩
  · simp [State.getV]
  · simp
  · exact fb_get_clear s.fb x y
  · exact blank_font s.mem.reset k hk
  · exact blank_outside_font s.mem.reset a ha

/-- Settles O59: construction is a fixed point of the machine reset. -/
theorem resetLeavesInitialValues : Obligations.ResetLeavesInitialValues := by
  refine ⟨fun s => ⟨machineReset_hasInitialValues s, rfl, rfl, rfl⟩, fun wp params font => ⟨?_, rfl, rfl, rfl⟩⟩
  rw [← construct_machineReset]
  exact machineReset_hasInitialValues _

/-! ### A failing host write -/

/-- A host write that fails is served by its answer alone. -/
theorem serveWrite_error_frame {s : State} {r : Except CoreError Memory} {e : CoreError} (h : r = .error e) :
    (s.serveWrite r).hostAnswer = some (.error e) ∧ OnlyChanges (fun f => f = .hostAnswer) s (s.serveWrite r) := by
  subst h
  exact ⟨rfl, answer_onlyChanges s _⟩

/-- Settles O56: the three host writes are all served by `State.serveWrite`. -/
theorem failedHostWriteChangesNothing : Obligations.FailedHostWriteChangesNothing :=
  fun _ => ⟨fun _ _ _ => serveWrite_error_frame, fun _ _ _ => serveWrite_error_frame, fun _ _ => serveWrite_error_frame⟩

/-! ### A Faulted machine -/

theorem updateTimers_onlyChanges (s : State) : OnlyChanges (fun f => f = .dt ∨ f = .st) s s.updateTimers := by
  intro f hf
  cases f
  case dt => exact absurd (.inl rfl) hf
  case st => exact absurd (.inr rfl) hf
  all_goals rfl

theorem setSchedule_onlyChanges (s : State) (calls : List HostCall) :
    OnlyChanges (fun f => f = .schedule) s { s with schedule := calls } := by
  intro f hf
  cases f
  case schedule => exact absurd rfl hf
  all_goals rfl

/-- A scheduled tick writes the two timers, and takes the call off the schedule and answers it. -/
theorem serve_updateTimers_onlyChanges (s : State) (rest : List HostCall) :
    OnlyChanges (fun f => f = .dt ∨ f = .st ∨ f = .schedule ∨ f = .hostAnswer) s
      (State.serve { s with schedule := rest } .updateTimers) := by
  refine (((setSchedule_onlyChanges s rest).trans (updateTimers_onlyChanges _)).trans (answer_onlyChanges _ _)).mono ?_
  rintro f ((hf | hf | hf) | hf) <;> simp [hf]

/-- Settles O45: a Faulted machine's cycle stops, and every other host call is served whatever the record is. -/
theorem faultedMachineStopsButTicks : Obligations.FaultedMachineStopsButTicks := by
  intro s e he
  refine ⟨fun hs => ?_, fun rest hs => ?_, fun rest hs => ?_, fun call rest hs hc => ?_⟩
  · rw [step_of_schedule_nil hs, cycle_of_fault he]
    rfl
  · rw [step_of_executeCycle hs]
    exact cycle_of_fault he
  · exact ⟨_, step_of_hostCall hs (by simp), tickDown_toNat s.dt, tickDown_toNat s.st,
      serve_updateTimers_onlyChanges s rest⟩
  · refine ⟨_, step_of_hostCall hs hc, ?_⟩
    rw [serve_fault, ← he]

end Sys2Proof.Machine
end

section
/-! The bound on PC and on the stack entries in use (10_state.md R28): every instruction, cycle and host call keeps it. -/

namespace Sys2Proof.Machine

/-! ### Instructions -/

/-- Only Return and Call write SP or a stack slot. -/
theorem exec_keepsStack {i : Instr} {s t : State} (h : exec i s = .next t) (hret : i ≠ .ret)
    (hcall : ∀ nnn, i ≠ .call nnn) : t.sp = s.sp ∧ ∀ k : Fin 16, t.stack[k] = s.stack[k] := by
  rcases exec_onlyChanges_or_fail h with hf | ⟨e, rfl⟩
  · have hsp : ¬ writeSet i s .sp := by cases i <;> simp_all [writeSet]
    have hstack : ∀ k, ¬ writeSet i s (.stack k) := by cases i <;> simp_all [writeSet]
    exact ⟨hf .sp hsp, fun k => hf (.stack k) (hstack k)⟩
  · exact ⟨rfl, fun _ => rfl⟩

theorem zextAddr_toNat (nnn : Addr12) : (zextAddr nnn).toNat = nnn.toNat :=
  BitVec.toNat_setWidth_of_le (by omega)

theorem zextByte_toNat (b : Byte) : (zextByte b).toNat = b.toNat :=
  BitVec.toNat_setWidth_of_le (by omega)

/-- A 12-bit target plus a byte does not wrap, so JumpWithV0 reaches at most 0xFFF + 0xFF (41_control_flow.md R133). -/
theorem zextAddr_add_zextByte_le (nnn : Addr12) (b : Byte) : (zextAddr nnn + zextByte b).toNat ≤ 0x10FE := by
  have := nnn.isLt
  have := b.isLt
  rw [BitVec.toNat_add, zextAddr_toNat, zextByte_toNat]
  omega

/-- Adding 2 to a PC within the fetch's reach does not wrap. -/
theorem pc_add_two_toNat {pc : Word} (h : pc.toNat ≤ 0x1000) : (pc + 2).toNat = pc.toNat + 2 := by
  have h2 : (2 : Word).toNat = 2 := rfl
  rw [BitVec.toNat_add, h2]
  omega

theorem skipIf_pc_le {s : State} (h : s.pc.toNat ≤ 0x1000) (c : Bool) : (s.skipIf c).pc.toNat ≤ 0x10FE := by
  cases c
  · exact h.trans (by decide)
  · have hp : (s.skipIf true).pc.toNat = s.pc.toNat + 2 := pc_add_two_toNat h
    omega

/-- From an advanced PC every instruction but Return, which takes PC from the stack, keeps PC within the bound. -/
theorem exec_pc_le {i : Instr} {s t : State} (h : exec i s = .next t) (hret : i ≠ .ret) (hpc : s.pc.toNat ≤ 0x1000) :
    t.pc.toNat ≤ 0x10FE := by
  rcases exec_onlyChanges_or_fail h with hf | ⟨e, rfl⟩
  case inr => exact hpc.trans (by decide)
  cases i
  case ret => exact absurd rfl hret
  case call nnn =>
    rcases execCall_cases h with ⟨p, -, rfl⟩ | ⟨-, rfl⟩
    · have := nnn.isLt
      rw [jumpTo_pc, zextAddr_toNat]
      omega
    · exact hpc.trans (by decide)
  case jump nnn =>
    cases h
    have := nnn.isLt
    rw [jumpTo_pc, zextAddr_toNat]
    omega
  case jumpWithV0 nnn =>
    cases h
    exact zextAddr_add_zextByte_le ..
  case skipEqualImm | skipNotEqualImm | skipEqualReg | skipNotEqualReg =>
    cases h
    exact skipIf_pc_le hpc _
  case skipKeyPressed | skipKeyNotPressed =>
    cases h
    exact skipIf_pc_le (by rwa [isPressed_pc]) _
  -- The rows of the others do not name PC.
  all_goals
    rw [show t.pc = s.pc from hf .pc (by simp [writeSet])]
    exact hpc.trans (by decide)

/-- Return takes PC from the newest entry in use, which its bound covers. -/
theorem pop_pcBounded {s t : State} (hs : s.PcBounded) (h : s.pop = .ok t) : t.PcBounded := by
  obtain ⟨-, hentries⟩ := hs
  obtain ⟨ht, hsp, hpc⟩ := pop_ok h
  have hstack : t.stack = s.stack := by rw [ht]
  have hlt : t.sp.val < 16 := by omega
  refine ⟨?_, fun k hk => ?_⟩
  · rw [hpc ⟨t.sp.val, hlt⟩ hsp]
    exact (hentries _ (by simp only; omega)).trans (by decide)
  · rw [hstack]
    exact hentries k (by omega)

/-- Call adds the advanced PC to the entries in use. -/
theorem push_entries_le {s t : State} (hs : s.PcBounded) (hpc : s.pc.toNat ≤ 0x1000) (h : s.push = .ok t)
    (k : Fin 16) (hk : k.val < t.sp.val) : t.stack[k].toNat ≤ 0x1000 := by
  obtain ⟨-, hentries⟩ := hs
  obtain ⟨-, -, hsp, hstack⟩ := push_ok h
  rw [hstack k]
  split
  · exact hpc
  · exact hentries k (by omega)

/-- Every instruction keeps the bound from an advanced PC, which the fetch leaves at most 0x1000. -/
theorem exec_pcBounded {i : Instr} {s t : State} (hs : s.PcBounded) (hpc : s.pc.toNat ≤ 0x1000)
    (h : exec i s = .next t) : t.PcBounded := by
  cases i
  case ret =>
    rcases execRet_cases h with hp | ⟨-, rfl⟩
    · exact pop_pcBounded hs hp
    · exact hs
  case call nnn =>
    refine ⟨exec_pc_le h (by simp) hpc, ?_⟩
    rcases execCall_cases h with ⟨p, hp, rfl⟩ | ⟨-, rfl⟩
    · exact push_entries_le (t := p) hs hpc hp
    · exact hs.2
  all_goals
    obtain ⟨hsp, hstack⟩ := exec_keepsStack h (by simp) (by simp)
    refine ⟨exec_pc_le h (by simp) hpc, fun k hk => ?_⟩
    rw [hstack k]
    exact hs.2 k (hsp ▸ hk)

/-! ### Cycles, host calls and the step -/

/-- A fetch inside Mem leaves PC at most 0x1000. -/
theorem advance_pc_le {s : State} (h : s.fetchable = true) : s.advance.pc.toNat ≤ 0x1000 := by
  have hpc := (fetchable_iff s).mp h
  rw [advance_pc, pc_add_two_toNat (by omega)]
  omega

theorem runFetched_pcBounded {s t : State} (hs : s.PcBounded) (hf : s.fetchable = true)
    (h : s.runFetched = .next t) : t.PcBounded := by
  have hpc := advance_pc_le hf
  have ha : s.advance.PcBounded := ⟨hpc.trans (by decide), hs.2⟩
  rcases runFetched_cases s with ⟨i, -, hr⟩ | ⟨op, -, hr⟩ <;> rw [hr] at h
  · exact exec_pcBounded ha hpc h
  · cases h
    exact ha

theorem pollKey_pcBounded {s : State} (hs : s.PcBounded) (r : RegIdx) : (s.pollKey r).PcBounded := by
  rcases pollKey_cases s r with ⟨k, -, h⟩ | ⟨-, h⟩ <;> rw [h] <;> simpa [State.PcBounded] using hs

theorem cycle_pcBounded {s t : State} (hs : s.PcBounded) (h : cycle s = .next t) : t.PcBounded := by
  rcases cycle_cases s with ⟨e, -, hc⟩ | ⟨r, -, -, hc⟩ | ⟨-, -, -, hc⟩ | ⟨-, -, hf, hc⟩ <;> rw [hc] at h
  · cases h
  · cases h
    exact pollKey_pcBounded hs r
  · cases h
    exact hs
  · exact runFetched_pcBounded hs hf h

/-- The reset state has PC = 0x200 and an empty stack. -/
theorem machineReset_pcBounded (s : State) : s.machineReset.PcBounded :=
  ⟨by simp, fun _ hk => absurd hk (Nat.not_lt_zero _)⟩

theorem serve_pcBounded {s : State} (hs : s.PcBounded) (c : HostCall) : (s.serve c).PcBounded := by
  by_cases hc : c = .reset
  · subst hc
    exact machineReset_pcBounded s
  · rw [serve_frame s c hc]
    exact hs

/-- Settles O46: each of the three things a step can be (a cycle with free ticks, a scheduled cycle, another host call)
keeps the bound. -/
theorem stepKeepsPcBounded : Obligations.StepKeepsPcBounded := by
  intro s t hs h
  rcases step_cases s with ⟨-, hstep⟩ | ⟨rest, -, hstep⟩ | ⟨call, rest, -, -, hstep⟩ <;> rw [hstep] at h
  · obtain ⟨u, hu, rfl⟩ := withFreeTicks_next h
    exact cycle_pcBounded (t := u) hs hu
  · exact cycle_pcBounded (s := { s with schedule := rest }) hs h
  · cases h
    exact serve_pcBounded (s := { s with schedule := rest }) hs call

end Sys2Proof.Machine
end

section
/-! The canonical form of memory (log entry 13): every instruction, cycle and host call keeps it, and it leaves one list
of cells for one contents. -/

namespace Sys2Proof.Machine

/-! ### Instructions and cycles -/

/-- The store at I of Fx33 and Fx55 passes its check first, so it lists no address outside Mem. -/
theorem storeAtI_wf {s : State} {l : List Byte} (hs : s.mem.wf) (hpos : 0 < l.length)
    (hcheck : s.checkAccess l.length true = none) : (s.mem.storeBytes (s.ea 0) l).wf :=
  storeBytes_wf hs (checkAccess_bound hcheck hpos)

/-- Only Fx33 and Fx55 write memory. -/
theorem exec_mem {i : Instr} {s t : State} (h : exec i s = .next t) (hbcd : ∀ x, i ≠ .storeBcd x)
    (hregs : ∀ x, i ≠ .storeRegisters x) : t.mem = s.mem := by
  cases i
  case storeBcd x => exact absurd rfl (hbcd x)
  case storeRegisters x => exact absurd rfl (hregs x)
  case ret =>
    rcases execRet_cases h with hp | ⟨-, rfl⟩
    · obtain ⟨ht, -⟩ := pop_ok hp
      rw [ht]
    · rfl
  case call nnn =>
    rcases execCall_cases h with ⟨p, hp, rfl⟩ | ⟨-, rfl⟩
    · obtain ⟨-, ht, -⟩ := push_ok hp
      rw [jumpTo_mem, ht]
    · rfl
  case loadFont x => rcases execLoadFont_cases h with ⟨w, -, rfl⟩ | ⟨e, -, rfl⟩ <;> rfl
  case loadRegisters x => rcases execLoadRegisters_cases h with ⟨-, rfl⟩ | ⟨e, -, rfl⟩ <;> simp
  case draw x y n => rcases execDraw_cases h with ⟨r, -, -, rfl⟩ | ⟨e, -, rfl⟩ | ⟨e, -, -, rfl⟩ <;> rfl
  case waitKey x => rcases execWaitKey_cases h with ⟨k, -, rfl⟩ | ⟨-, rfl⟩ <;> simp
  -- The other meanings cannot fail: each is one update of registers, I, PC, timers, FB or the oracle.
  all_goals
    cases h
    simp

theorem exec_mem_wf {i : Instr} {s t : State} (hs : s.mem.wf) (h : exec i s = .next t) : t.mem.wf := by
  cases i
  case storeBcd x =>
    rcases execStoreBcd_cases h with ⟨hc, rfl⟩ | ⟨e, -, rfl⟩
    · exact storeAtI_wf (l := bcdDigits (s.getV x)) hs (by simp [bcdDigits]) hc
    · exact hs
  case storeRegisters x =>
    rcases execStoreRegisters_cases h with ⟨hc, rfl⟩ | ⟨e, -, rfl⟩
    · rw [← registersUpTo_length s x] at hc
      rw [stepIndex_mem]
      exact storeAtI_wf hs (by simp [registersUpTo_length]) hc
    · exact hs
  all_goals
    rw [exec_mem h (by simp) (by simp)]
    exact hs

theorem runFetched_mem_wf {s t : State} (hs : s.mem.wf) (h : s.runFetched = .next t) : t.mem.wf := by
  rcases runFetched_cases s with ⟨i, -, hr⟩ | ⟨op, -, hr⟩ <;> rw [hr] at h
  · exact exec_mem_wf (s := s.advance) hs h
  · cases h
    exact hs

theorem pollKey_mem (s : State) (r : RegIdx) : (s.pollKey r).mem = s.mem := by
  rcases pollKey_cases s r with ⟨k, -, h⟩ | ⟨-, h⟩ <;> simp [h]

theorem cycle_mem_wf {s t : State} (hs : s.mem.wf) (h : cycle s = .next t) : t.mem.wf := by
  rcases cycle_cases s with ⟨e, -, hc⟩ | ⟨r, -, -, hc⟩ | ⟨-, -, -, hc⟩ | ⟨-, -, -, hc⟩ <;> rw [hc] at h
  · cases h
  · cases h
    rw [pollKey_mem]
    exact hs
  · cases h
    exact hs
  · exact runFetched_mem_wf hs h

/-! ### Host calls and the step -/

theorem serveWrite_mem_wf {s : State} {r : Except CoreError Memory} (hs : s.mem.wf) (h : ∀ m, r = .ok m → m.wf) :
    (s.serveWrite r).mem.wf := by
  rcases serveWrite_cases s r with ⟨m, hm, hw⟩ | ⟨e, -, hw⟩ <;> rw [hw]
  · exact h m hm
  · exact hs

theorem serveRead_mem {α : Type} (s : State) (wrap : α → HostAnswer) (r : Except CoreError α) :
    (s.serveRead wrap r).mem = s.mem := by
  obtain ⟨a, ha⟩ := serveRead_cases s wrap r
  rw [ha, answer_mem]

theorem serve_mem_wf {s : State} (hs : s.mem.wf) (c : HostCall) : (s.serve c).mem.wf := by
  cases c
  case loadRom l => exact serveWrite_mem_wf hs fun _ => loadRom_wf hs
  case writeByte a b => exact serveWrite_mem_wf hs fun _ => writeByte_wf hs
  case writeWord a w => exact serveWrite_mem_wf hs fun _ => writeWord_wf hs
  case reset | memoryReset => exact reset_wf s.mem
  case readByte | readWord | fontGlyphAddress =>
    rw [State.serve, serveRead_mem]
    exact hs
  case decodeOpcode op =>
    simp only [State.serve]
    split <;> exact hs
  all_goals exact hs

/-- Settles O48: each of the three things a step can be (a cycle with free ticks, a scheduled cycle, another host call)
keeps the canonical form. -/
theorem stepKeepsMemoryCanonical : Obligations.StepKeepsMemoryCanonical := by
  intro s t hs h
  rcases step_cases s with ⟨-, hstep⟩ | ⟨rest, -, hstep⟩ | ⟨call, rest, -, -, hstep⟩ <;> rw [hstep] at h
  · obtain ⟨u, hu, rfl⟩ := withFreeTicks_next h
    exact cycle_mem_wf (t := u) hs hu
  · exact cycle_mem_wf (s := { s with schedule := rest }) hs h
  · cases h
    exact serve_mem_wf (s := { s with schedule := rest }) hs call

/-- Settles O47: the constructed state is that of a machine reset. -/
theorem constructionMeetsInvariants : Obligations.ConstructionMeetsInvariants := by
  intro wp params font
  rw [← construct_machineReset]
  exact ⟨machineReset_pcBounded _, reset_wf _⟩

/-! ### Reads determine a canonical memory -/

/-- Where addresses are listed once, a lookup finds exactly the listed bytes. -/
theorem lookupCell_eq_some_iff {l : List Host.Cell} (h : l.Pairwise (fun c d => c.1 < d.1)) {a : Nat} {b : Byte} :
    lookupCell l a = some b ↔ (a, b) ∈ l := by
  induction l with
  | nil => simp [lookupCell]
  | cons c rest ih =>
    obtain ⟨k, v⟩ := c
    obtain ⟨hhead, hrest⟩ := List.pairwise_cons.mp h
    by_cases hk : k = a
    · subst hk
      have hnot : (k, b) ∉ rest := fun hmem => absurd (hhead _ hmem) (lt_irrefl k)
      simp [lookupCell, hnot, eq_comm]
    · simp [lookupCell, hk, Ne.symm hk, ih hrest]

/-- Lists with rising addresses that hold the same cells are equal. -/
theorem cells_ext {l l' : List Host.Cell} (h : l.Pairwise (fun c d => c.1 < d.1))
    (h' : l'.Pairwise (fun c d => c.1 < d.1)) (hmem : ∀ c, c ∈ l ↔ c ∈ l') : l = l' := by
  have hne : ∀ {c d : Host.Cell}, c.1 < d.1 → c ≠ d := fun hlt e => absurd (congrArg Prod.fst e) hlt.ne
  have hperm : l.Perm l' := (List.perm_ext_iff_of_nodup (h.imp hne) (h'.imp hne)).mpr hmem
  exact hperm.eq_of_pairwise (fun _ _ _ _ hlt hgt => absurd hlt hgt.asymm) h h'

/-- A canonical memory lists, inside Mem, exactly the bytes that differ from the reset contents. -/
theorem mem_cells_iff {m : Memory} (h : m.wf) {a : Nat} {b : Byte} :
    (a, b) ∈ m.cells ↔ a < memSize ∧ m.get a = b ∧ b ≠ m.blank a := by
  obtain ⟨hsorted, hlisted⟩ := h
  constructor
  · intro hmem
    obtain ⟨ha, hb⟩ := hlisted _ hmem
    refine ⟨ha, ?_, hb⟩
    rw [Memory.get, (lookupCell_eq_some_iff hsorted).mpr hmem, Option.getD_some]
  · rintro ⟨-, hget, hb⟩
    rw [← lookupCell_eq_some_iff hsorted]
    cases hl : lookupCell m.cells a with
    | none => exact absurd (by rw [← hget, Memory.get, hl, Option.getD_none]) hb
    | some c => rw [← hget, Memory.get, hl, Option.getD_some]

/-- Settles O49: memories that read alike list the same cells, and the rising order leaves one list for them. -/
theorem canonicalMemoriesAreDeterminedByReads : Obligations.CanonicalMemoriesAreDeterminedByReads := by
  intro m m' hm hm' hfont hget
  have hblank : ∀ a, m.blank a = m'.blank a := fun a => by rw [Memory.blank, Memory.blank, hfont]
  have hmem : ∀ c, c ∈ m.cells ↔ c ∈ m'.cells := by
    rintro ⟨a, b⟩
    rw [mem_cells_iff hm, mem_cells_iff hm', hblank]
    exact and_congr_right fun ha => by rw [hget a ha]
  have hcells : m.cells = m'.cells := cells_ext hm.1 hm'.1 hmem
  cases m
  cases m'
  exact congrArg₂ Memory.mk hfont hcells

end Sys2Proof.Machine
end

section
/-! An instruction that neither pushes, pops nor sets ST commutes with any change of the stack and ST, so no instruction
reads ST (10_state.md R31). -/

namespace Sys2Proof.Machine

/-! ### Changing the stack and ST -/

/-- The state with its stack changed by `g` and its ST changed by `h`. -/
def State.mapStackSt (g : Vector Word 16 → Vector Word 16) (h : Byte → Byte) (s : State) : State :=
  { s with stack := g s.stack, st := h s.st }

/-- A change of the next state that an outcome answers. -/
def mapNext (f : State → State) : Result → Result
  | .next t => .next (f t)
  | .fault r => .fault r
  | .refused r => .refused r

section
variable (g : Vector Word 16 → Vector Word 16) (h : Byte → Byte) (s : State)

theorem mapStackSt_params : (s.mapStackSt g h).params = s.params := rfl
theorem mapStackSt_oracle : (s.mapStackSt g h).oracle = s.oracle := rfl
theorem mapStackSt_getV (x : RegIdx) : (s.mapStackSt g h).getV x = s.getV x := rfl
theorem mapStackSt_keyOperand (x : RegIdx) : (s.mapStackSt g h).keyOperand x = s.keyOperand x := rfl
theorem mapStackSt_registersUpTo (x : RegIdx) : (s.mapStackSt g h).registersUpTo x = s.registersUpTo x := rfl
theorem mapStackSt_readAtI (n : Nat) : (s.mapStackSt g h).readAtI n = s.readAtI n := rfl
theorem mapStackSt_checkAccess (n : Nat) (w : Bool) : (s.mapStackSt g h).checkAccess n w = s.checkAccess n w := rfl

/-- An instruction that may fail commutes with the change when its result does: the Fault record holds neither. -/
theorem mapStackSt_complete {r r' : Except CoreError State} (hr : r' = r.map (·.mapStackSt g h)) :
    (s.mapStackSt g h).complete r' = mapNext (·.mapStackSt g h) (s.complete r) := by
  subst hr
  cases r <;> rfl

theorem mapStackSt_writeAtI (l : List Byte) :
    (s.mapStackSt g h).writeAtI l = (s.writeAtI l).map (·.mapStackSt g h) := by
  simp only [State.writeAtI, mapStackSt_checkAccess]
  cases s.checkAccess l.length true <;> rfl

theorem mapStackSt_stepIndex (x : RegIdx) :
    (s.mapStackSt g h).stepIndex x = (s.stepIndex x).mapStackSt g h := by
  by_cases hi : s.params.loadStoreIncrementsI = true
  · simp only [State.stepIndex, mapStackSt_params, hi]
    rfl
  · simp only [State.stepIndex, mapStackSt_params, hi]
    rfl

theorem mapStackSt_skipIf (c : Bool) : (s.mapStackSt g h).skipIf c = (s.skipIf c).mapStackSt g h := by
  cases c <;> rfl

theorem mapStackSt_setShift (x : RegIdx) (f f' : Byte → Byte) :
    (s.mapStackSt g h).setShift x f f' = (s.setShift x f f').mapStackSt g h := by
  simp only [State.setShift, mapStackSt_params]
  split <;> rfl

theorem mapStackSt_randomByte :
    (s.mapStackSt g h).randomByte = (s.randomByte.1, s.randomByte.2.mapStackSt g h) := by
  simp only [State.randomByte, mapStackSt_oracle]
  split <;> rfl

theorem mapStackSt_isPressed (k : Key) :
    (s.mapStackSt g h).isPressed k = ((s.isPressed k).1, (s.isPressed k).2.mapStackSt g h) := by
  simp only [State.isPressed, mapStackSt_oracle]
  split <;> rfl

theorem mapStackSt_takeKey : (s.mapStackSt g h).takeKey = (s.takeKey.1, s.takeKey.2.mapStackSt g h) := by
  simp only [State.takeKey, mapStackSt_oracle]
  split <;> rfl

theorem mapStackSt_pollKey (r : RegIdx) : (s.mapStackSt g h).pollKey r = (s.pollKey r).mapStackSt g h := by
  simp only [State.pollKey, mapStackSt_takeKey]
  split <;> rfl

/-- An instruction that neither pushes, pops nor sets ST does the same whatever the stack and ST hold, and leaves them
as they are. -/
theorem exec_mapStackSt (i : Instr) (hret : i ≠ .ret) (hcall : ∀ nnn, i ≠ .call nnn) (hst : ∀ x, i ≠ .setSound x) :
    exec i (s.mapStackSt g h) = mapNext (·.mapStackSt g h) (exec i s) := by
  cases i
  case ret => exact absurd rfl hret
  case call nnn => exact absurd rfl (hcall nnn)
  case setSound x => exact absurd rfl (hst x)
  case skipEqualImm | skipNotEqualImm | skipEqualReg | skipNotEqualReg =>
    exact congrArg Host.Outcome.next (mapStackSt_skipIf g h s _)
  case shrReg | shlReg => exact congrArg Host.Outcome.next (mapStackSt_setShift g h s ..)
  case random x kk =>
    simp only [exec, execRandom, mapStackSt_randomByte]
    rfl
  case skipKeyPressed x =>
    simp only [exec, execSkipKeyPressed, mapStackSt_keyOperand, mapStackSt_isPressed, mapStackSt_skipIf]
    rfl
  case skipKeyNotPressed x =>
    simp only [exec, execSkipKeyNotPressed, mapStackSt_keyOperand, mapStackSt_isPressed, mapStackSt_skipIf]
    rfl
  case waitKey x =>
    simp only [exec, execWaitKey, mapStackSt_takeKey]
    cases s.takeKey.1 <;> rfl
  case loadFont x =>
    refine mapStackSt_complete g h s ?_
    rw [mapStackSt_getV]
    cases fontGlyphAddress (s.getV x).toNat <;> rfl
  case storeBcd x => exact mapStackSt_complete g h s (mapStackSt_writeAtI g h s _)
  case storeRegisters x =>
    refine mapStackSt_complete g h s ?_
    rw [mapStackSt_registersUpTo, mapStackSt_writeAtI]
    cases s.writeAtI (s.registersUpTo x)
    · rfl
    · exact congrArg Except.ok (mapStackSt_stepIndex ..)
  case loadRegisters x =>
    refine mapStackSt_complete g h s ?_
    rw [mapStackSt_readAtI]
    cases s.readAtI (x.val + 1)
    · rfl
    · exact congrArg Except.ok (mapStackSt_stepIndex g h (s.setRegistersUpTo x _) x)
  case draw x y n =>
    refine mapStackSt_complete g h s ?_
    rw [mapStackSt_readAtI]
    cases s.readAtI n.toNat
    case error e => rfl
    case ok rows =>
      simp only [bind, Except.bind, mapStackSt_getV]
      rw [show (s.mapStackSt g h).fb = s.fb from rfl]
      cases drawSprite s.fb (s.getV x) (s.getV y) rows <;> rfl
  all_goals rfl

end

/-! ### ST within an instruction -/

theorem mapSt_pop (h : Byte → Byte) (s : State) : (s.mapStackSt id h).pop = s.pop.map (·.mapStackSt id h) := by
  rcases sp_zero_or_succ s with h0 | ⟨k, hk⟩
  · rw [pop_eq_error h0, pop_eq_error (s := s.mapStackSt id h) h0]
    rfl
  · rw [pop_eq_ok k hk, pop_eq_ok (s := s.mapStackSt id h) k hk]
    rfl

theorem mapSt_push (h : Byte → Byte) (s : State) : (s.mapStackSt id h).push = s.push.map (·.mapStackSt id h) := by
  rcases sp_full_or_lt s with h16 | ⟨k, hk⟩
  · rw [push_eq_error h16, push_eq_error (s := s.mapStackSt id h) h16]
    rfl
  · rw [push_eq_ok k hk, push_eq_ok (s := s.mapStackSt id h) k hk]
    rfl

/-- A change of ST alone is carried through every instruction but SetSound. -/
theorem exec_mapSt (h : Byte → Byte) (s : State) (i : Instr) (hst : ∀ x, i ≠ .setSound x) :
    exec i (s.mapStackSt id h) = mapNext (·.mapStackSt id h) (exec i s) := by
  by_cases hret : i = .ret
  · subst hret
    exact mapStackSt_complete id h s (mapSt_pop h s)
  by_cases hcall : ∃ nnn, i = .call nnn
  · obtain ⟨nnn, rfl⟩ := hcall
    refine mapStackSt_complete id h s ?_
    rw [mapSt_push]
    cases s.push <;> rfl
  · exact exec_mapStackSt id h s i hret (fun nnn hi => hcall ⟨nnn, hi⟩) hst

/-- Settles O52: SetSound overwrites ST, and every other instruction carries it through. -/
theorem noInstructionReadsSoundTimer : Obligations.NoInstructionReadsSoundTimer := by
  intro i s b
  obtain ⟨t, ht⟩ := everyInstructionAnswersNextState i s
  refine ⟨t, ht, ?_⟩
  by_cases hi : ∃ x, i = .setSound x
  · rw [if_pos hi]
    obtain ⟨x, rfl⟩ := hi
    exact ht
  · rw [if_neg hi]
    have hmap := exec_mapSt (fun _ => b) s i fun x hx => hi ⟨x, hx⟩
    rw [ht] at hmap
    exact hmap

end Sys2Proof.Machine
end

section
/-! The stack slots at SP and above are never observed (10_state.md R30): every instruction, cycle and host call carries
agreement below SP. -/

namespace Sys2Proof.Machine

/-! ### Instructions -/

theorem agreeBelowSp_iff {s t : State} : AgreeBelowSp s t ↔ ∃ stack : Vector Word 16,
    t = s.mapStackSt (fun _ => stack) id ∧ ∀ k : Fin 16, k.val < s.sp.val → stack[k] = s.stack[k] := by
  constructor
  · rintro ⟨ht, hstack⟩
    exact ⟨t.stack, ht, hstack⟩
  · rintro ⟨stack, rfl, hstack⟩
    exact ⟨rfl, hstack⟩

theorem AgreeBelowSp.refl (s : State) : AgreeBelowSp s s := ⟨rfl, fun _ _ => rfl⟩

/-- A change of the stack that agrees below SP still agrees after anything that keeps SP and the stack. -/
theorem agreeBelowSp_of_keepsStack {s u : State} {stack : Vector Word 16}
    (hstack : ∀ k : Fin 16, k.val < s.sp.val → stack[k] = s.stack[k])
    (hu : u.sp = s.sp ∧ ∀ k : Fin 16, u.stack[k] = s.stack[k]) :
    AgreeBelowSp u (u.mapStackSt (fun _ => stack) id) := by
  obtain ⟨hsp, hkeep⟩ := hu
  exact ⟨rfl, fun k hk => (hstack k (hsp ▸ hk)).trans (hkeep k).symm⟩

/-- Return reads the slot below SP, and that slot is unobservable afterwards. -/
theorem execRet_agree {s t : State} (h : AgreeBelowSp s t) : SameOutcome AgreeBelowSp (execRet s) (execRet t) := by
  obtain ⟨stack, rfl, hstack⟩ := agreeBelowSp_iff.mp h
  unfold execRet
  rcases sp_zero_or_succ s with h0 | ⟨k, hk⟩
  · rw [pop_eq_error h0, pop_eq_error (s := s.mapStackSt _ id) h0]
    exact ⟨rfl, hstack⟩
  · rw [pop_eq_ok k hk, pop_eq_ok (s := s.mapStackSt _ id) k hk]
    have hpc : stack[k] = s.stack[k] := hstack k (by omega)
    refine ⟨?_, fun j hj => hstack j ?_⟩
    · simp [State.mapStackSt, hpc]
    · have hj' : j.val < k.val := hj
      omega

/-- Call overwrites the slot at SP, and that slot is observable afterwards. -/
theorem execCall_agree {s t : State} (nnn : Addr12) (h : AgreeBelowSp s t) :
    SameOutcome AgreeBelowSp (execCall nnn s) (execCall nnn t) := by
  obtain ⟨stack, rfl, hstack⟩ := agreeBelowSp_iff.mp h
  unfold execCall
  rcases sp_full_or_lt s with h16 | ⟨k, hk⟩
  · rw [push_eq_error h16, push_eq_error (s := s.mapStackSt _ id) h16]
    exact ⟨rfl, hstack⟩
  · rw [push_eq_ok k hk, push_eq_ok (s := s.mapStackSt _ id) k hk]
    refine ⟨rfl, fun j hj => ?_⟩
    have hj' : j.val < k.val + 1 := hj
    change (stack.set k s.pc)[j] = (s.stack.set k s.pc)[j]
    simp only [Fin.getElem_fin, Vector.getElem_set]
    split
    · rfl
    · exact hstack j (by omega)

theorem exec_agree {s t : State} (i : Instr) (h : AgreeBelowSp s t) :
    SameOutcome AgreeBelowSp (exec i s) (exec i t) := by
  by_cases hret : i = .ret
  · subst hret
    exact execRet_agree h
  by_cases hcall : ∃ nnn, i = .call nnn
  · obtain ⟨nnn, rfl⟩ := hcall
    exact execCall_agree nnn h
  obtain ⟨stack, rfl, hstack⟩ := agreeBelowSp_iff.mp h
  by_cases hst : ∃ x, i = .setSound x
  · obtain ⟨x, rfl⟩ := hst
    exact ⟨rfl, hstack⟩
  have hcall' : ∀ nnn, i ≠ .call nnn := fun nnn hi => hcall ⟨nnn, hi⟩
  obtain ⟨u, hu⟩ := everyInstructionAnswersNextState i s
  rw [exec_mapStackSt _ _ s i hret hcall' fun x hi => hst ⟨x, hi⟩, hu]
  exact agreeBelowSp_of_keepsStack hstack (exec_keepsStack hu hret hcall')

/-! ### Cycles -/

theorem pollKey_keepsStack (s : State) (r : RegIdx) :
    (s.pollKey r).sp = s.sp ∧ ∀ k : Fin 16, (s.pollKey r).stack[k] = s.stack[k] := by
  rcases pollKey_cases s r with ⟨k, -, h⟩ | ⟨-, h⟩ <;> simp [h]

theorem runFetched_agree {s t : State} (h : AgreeBelowSp s t) :
    SameOutcome AgreeBelowSp s.runFetched t.runFetched := by
  obtain ⟨stack, rfl, hstack⟩ := agreeBelowSp_iff.mp h
  rcases runFetched_cases s with ⟨i, hd, hr⟩ | ⟨op, hd, hr⟩
  · rw [hr, runFetched_of_decode_ok (s := s.mapStackSt _ id) hd]
    exact exec_agree i ⟨rfl, hstack⟩
  · rw [hr, runFetched_of_decode_error (s := s.mapStackSt _ id) hd]
    exact ⟨rfl, hstack⟩

theorem cycle_agree {s t : State} (h : AgreeBelowSp s t) : SameOutcome AgreeBelowSp (cycle s) (cycle t) := by
  obtain ⟨stack, rfl, hstack⟩ := agreeBelowSp_iff.mp h
  rcases cycle_cases s with ⟨e, hf, hc⟩ | ⟨r, hf, he, hc⟩ | ⟨hf, he, hp, hc⟩ | ⟨hf, he, hp, hc⟩ <;> rw [hc]
  · rw [cycle_of_fault (s := s.mapStackSt _ id) hf]
    rfl
  · rw [cycle_of_waiting (s := s.mapStackSt _ id) hf he, mapStackSt_pollKey]
    exact agreeBelowSp_of_keepsStack hstack (pollKey_keepsStack s r)
  · rw [cycle_of_not_fetchable (s := s.mapStackSt _ id) hf he hp]
    exact ⟨rfl, hstack⟩
  · rw [cycle_of_fetchable (s := s.mapStackSt _ id) hf he hp]
    exact runFetched_agree h

theorem withFreeTicks_agree {r r' : Result} (h : SameOutcome AgreeBelowSp r r') :
    SameOutcome AgreeBelowSp (withFreeTicks r) (withFreeTicks r') := by
  cases r <;> cases r'
  case next.next s t =>
    obtain ⟨stack, rfl, hstack⟩ := agreeBelowSp_iff.mp h
    exact ⟨rfl, hstack⟩
  all_goals exact h

/-! ### Host calls and the step -/

theorem mapStackSt_serveWrite (g : Vector Word 16 → Vector Word 16) (h : Byte → Byte) (s : State)
    (r : Except CoreError Memory) : (s.mapStackSt g h).serveWrite r = (s.serveWrite r).mapStackSt g h := by
  cases r <;> rfl

theorem mapStackSt_serveRead {α : Type} (g : Vector Word 16 → Vector Word 16) (h : Byte → Byte) (s : State)
    (wrap : α → HostAnswer) (r : Except CoreError α) :
    (s.mapStackSt g h).serveRead wrap r = (s.serveRead wrap r).mapStackSt g h := by
  cases r <;> rfl

/-- No host call but the machine reset reads or writes the stack. -/
theorem serve_mapStack (g : Vector Word 16 → Vector Word 16) (s : State) (c : HostCall) (hc : c ≠ .reset) :
    (s.mapStackSt g id).serve c = (s.serve c).mapStackSt g id := by
  cases c
  case reset => exact absurd rfl hc
  case loadRom | writeByte | writeWord => exact mapStackSt_serveWrite g id s _
  case readByte | readWord | fontGlyphAddress => exact mapStackSt_serveRead g id s _ _
  case decodeOpcode op =>
    simp only [State.serve, mapStackSt_params]
    split <;> rfl
  all_goals rfl

theorem serve_agree {s t : State} (c : HostCall) (h : AgreeBelowSp s t) : AgreeBelowSp (s.serve c) (t.serve c) := by
  obtain ⟨stack, rfl, hstack⟩ := agreeBelowSp_iff.mp h
  by_cases hc : c = .reset
  · subst hc
    exact AgreeBelowSp.refl (s.serve .reset)
  · rw [serve_mapStack _ s c hc]
    refine agreeBelowSp_of_keepsStack hstack ?_
    rw [serve_frame s c hc]
    exact ⟨rfl, fun _ => rfl⟩

/-- Settles O51: both states take the same kind of step, and each kind carries the agreement. -/
theorem stackAboveSpIsUnobservable : Obligations.StackAboveSpIsUnobservable := by
  intro s t h
  obtain ⟨stack, rfl, hstack⟩ := agreeBelowSp_iff.mp h
  rcases step_cases s with ⟨hs, hstep⟩ | ⟨rest, hs, hstep⟩ | ⟨call, rest, hs, hc, hstep⟩ <;> rw [hstep]
  · rw [step_of_schedule_nil (s := s.mapStackSt _ id) hs]
    exact withFreeTicks_agree (cycle_agree h)
  · rw [step_of_executeCycle (s := s.mapStackSt _ id) hs]
    exact cycle_agree ⟨rfl, hstack⟩
  · rw [step_of_hostCall (s := s.mapStackSt _ id) hs hc]
    exact serve_agree call ⟨rfl, hstack⟩

end Sys2Proof.Machine
end

section
/-! The memory controller (20_memory.md): each checked access as equations, one for each case of its check, and what the
bytes it stores read as. -/

namespace Sys2Proof.Machine

/-! ### Bytes stored one after another -/

theorem storeBytes_get_inside (m : Memory) (a : Nat) {l : List Byte} {k : Nat} (h : k < l.length) :
    (m.storeBytes a l).get (a + k) = l[k] := by
  rw [storeBytes_get, if_pos (by omega), Nat.add_sub_cancel_left, List.getD_eq_getElem _ _ h]

/-! ### Bytes (R55, R56) -/

theorem readByte_eq_ok (m : Memory) {a : Int} (h : 0 ≤ a ∧ a < 4096) : m.readByte a = .ok (m.get a.toNat) :=
  if_pos h

theorem readByte_eq_error (m : Memory) {a : Int} (h : ¬ (0 ≤ a ∧ a < 4096)) :
    m.readByte a = .error (.outOfBounds a) :=
  if_neg h

theorem writeByte_eq_ok (m : Memory) {wp : Bool} {a : Int} (b : Byte) (h : 0 ≤ a ∧ a < 4096)
    (hwp : ¬ (wp = true ∧ a ≤ 0x1FF)) : m.writeByte wp a b = .ok (m.poke a.toNat b) :=
  (if_pos h).trans (if_neg hwp)

theorem writeByte_eq_outOfBounds (m : Memory) (wp : Bool) {a : Int} (b : Byte) (h : ¬ (0 ≤ a ∧ a < 4096)) :
    m.writeByte wp a b = .error (.outOfBounds a) :=
  if_neg h

theorem writeByte_eq_writeProtected (m : Memory) {wp : Bool} {a : Int} (b : Byte) (h : 0 ≤ a ∧ a ≤ 0x1FF)
    (hwp : wp = true) : m.writeByte wp a b = .error (.writeProtected a) := by
  obtain ⟨hnonneg, htop⟩ := h
  have hin : 0 ≤ a ∧ a < 4096 := ⟨hnonneg, by omega⟩
  exact (if_pos hin).trans (if_pos ⟨hwp, htop⟩)

/-- Settles O53: the cases of the two checks, and the byte poked is the one read back. -/
theorem byteAccessChecksThenTransfers : Obligations.ByteAccessChecksThenTransfers := by
  intro m wp a b
  refine ⟨fun h => ⟨readByte_eq_error m h, writeByte_eq_outOfBounds m wp b h⟩, readByte_eq_ok m,
    writeByte_eq_writeProtected m b, fun h hwp => ⟨_, writeByte_eq_ok m b h hwp, ?_, fun c hc => ?_⟩⟩
  · rw [readByte_eq_ok _ h, poke_get, if_pos rfl]
  · rw [poke_get, if_neg hc]

/-! ### Words (R57, R58) -/

theorem readWord_eq_ok (m : Memory) {a : Int} (h : 0 ≤ a ∧ a + 1 < 4096) : m.readWord a = .ok (m.wordAt a.toNat) :=
  if_pos h

theorem readWord_eq_error (m : Memory) {a : Int} (h : ¬ (0 ≤ a ∧ a + 1 < 4096)) :
    m.readWord a = .error (.wordOutOfBounds a) :=
  if_neg h

theorem writeWord_eq_ok (m : Memory) {wp : Bool} {a : Int} (w : Word) (h : 0 ≤ a ∧ a + 1 < 4096)
    (hwp : ¬ (wp = true ∧ a ≤ 0x1FF)) :
    m.writeWord wp a w = .ok (m.storeBytes a.toNat [highByte w, lowByte w]) :=
  (if_pos h).trans (if_neg hwp)

theorem writeWord_eq_wordOutOfBounds (m : Memory) (wp : Bool) {a : Int} (w : Word) (h : ¬ (0 ≤ a ∧ a + 1 < 4096)) :
    m.writeWord wp a w = .error (.wordOutOfBounds a) :=
  if_neg h

theorem writeWord_eq_writeProtected (m : Memory) {wp : Bool} {a : Int} (w : Word) (h : 0 ≤ a ∧ a ≤ 0x1FF)
    (hwp : wp = true) : m.writeWord wp a w = .error (.writeProtected a) := by
  obtain ⟨hnonneg, htop⟩ := h
  have hin : 0 ≤ a ∧ a + 1 < 4096 := ⟨hnonneg, by omega⟩
  exact (if_pos hin).trans (if_pos ⟨hwp, htop⟩)

theorem storeBytes_pair_get (m : Memory) (a : Nat) (hi lo : Byte) : (m.storeBytes a [hi, lo]).get a = hi :=
  storeBytes_get_inside m a (k := 0) (by simp)

theorem storeBytes_pair_get_succ (m : Memory) (a : Nat) (hi lo : Byte) :
    (m.storeBytes a [hi, lo]).get (a + 1) = lo :=
  storeBytes_get_inside m a (k := 1) (by simp)

/-- Two stored bytes read back as the word they make up. -/
theorem storeBytes_pair_wordAt (m : Memory) (a : Nat) (hi lo : Byte) :
    (m.storeBytes a [hi, lo]).wordAt a = wordOfBytes hi lo := by
  rw [Memory.wordAt, storeBytes_pair_get, storeBytes_pair_get_succ]

/-- Settles O54: the cases of the two checks, and the two bytes stored are those of the word. -/
theorem wordAccessIsBigEndianAllOrNothing : Obligations.WordAccessIsBigEndianAllOrNothing := by
  intro m wp a w
  refine ⟨fun h => ⟨readWord_eq_error m h, writeWord_eq_wordOutOfBounds m wp w h⟩,
    fun h => ⟨_, readWord_eq_ok m h, wordOfBytes_toNat ..⟩, writeWord_eq_writeProtected m w,
    fun h hwp => ⟨_, writeWord_eq_ok m w h hwp, ?_, ?_, ?_, fun c hhigh hlow => ?_⟩⟩
  · rw [readWord_eq_ok _ h, storeBytes_pair_wordAt, wordOfBytes_split]
  · rw [storeBytes_pair_get, highByte_toNat]
  · rw [storeBytes_pair_get_succ, lowByte_toNat]
  · refine storeBytes_get_outside _ _ _ _ ?_
    simp only [List.length_cons, List.length_nil]
    omega

/-! ### The ROM (R60, R61) -/

theorem loadRom_eq_ok (m : Memory) {l : List Byte} (h : l.length ≤ 3584) :
    m.loadRom l = .ok (m.storeBytes 0x200 l) :=
  if_neg (Nat.not_lt.mpr h)

theorem loadRom_eq_error (m : Memory) {l : List Byte} (h : l.length > 3584) :
    m.loadRom l = .error (.romTooLarge l.length) :=
  if_pos h

/-- Settles O55: the payload's bytes are stored one after another from 0x200 on. -/
theorem loadRomCopiesWholePayload : Obligations.LoadRomCopiesWholePayload := by
  intro m l
  refine ⟨loadRom_eq_error m, fun h => ⟨_, loadRom_eq_ok m h, fun k hk => ?_, fun c =>
    storeBytes_get_outside m 0x200 c l⟩⟩
  rw [storeBytes_get_inside m 0x200 hk, List.getElem?_eq_getElem hk]

/-! ### The font address (R62) -/

theorem fontGlyphAddress_eq_ok {d : Int} (h : 0 ≤ d ∧ d ≤ 15) :
    fontGlyphAddress d = .ok (BitVec.ofNat 16 (0x050 + d.toNat * 5)) :=
  if_pos h

theorem fontGlyphAddress_eq_error {d : Int} (h : ¬ (0 ≤ d ∧ d ≤ 15)) :
    fontGlyphAddress d = .error (.invalidFontDigit d) :=
  if_neg h

/-- Settles O57: the highest glyph address is 0x09B, so the address does not wrap. -/
theorem fontGlyphAddressOrInvalidDigit : Obligations.FontGlyphAddressOrInvalidDigit := by
  intro d
  refine ⟨fun h => ⟨_, fontGlyphAddress_eq_ok h, ?_⟩, fontGlyphAddress_eq_error⟩
  have hfit : 0x050 + d.toNat * 5 < 2 ^ 16 := by omega
  rw [BitVec.toNat_ofNat, Nat.mod_eq_of_lt hfit]
  omega

/-! ### The memory's own reset (R63) -/

theorem setMem_onlyChanges (s : State) (m : Memory) (hfont : m.font = s.mem.font) :
    OnlyChanges (fun f => ∃ a, f = .mem a) s { s with mem := m } := by
  intro f hf
  cases f
  case mem a => exact absurd ⟨a, rfl⟩ hf
  case font => exact hfont
  all_goals rfl

/-- Settles O58: after the reset each address reads as `Memory.blank`, and the host call writes Mem and its answer. -/
theorem memoryResetZeroesAndRestoresFont : Obligations.MemoryResetZeroesAndRestoresFont :=
  ⟨fun m => ⟨blank_font m, blank_outside_font m, rfl⟩,
    fun s => ⟨rfl, (setMem_onlyChanges s s.mem.reset rfl).trans (answer_onlyChanges _ _), rfl, rfl⟩⟩

end Sys2Proof.Machine
end

section
/-! The decoder (30_encoding.md): encoding and decoding are inverse up to the ignored bits of family 0, and the
two-level dispatch of R86 agrees with the opcode map of R95. -/

namespace Sys2Proof

/-! ### Decoding through the dispatch on the family (R86) -/

theorem decode_eq_ok_iff {z : ZeroFamilyMatch} {op : Word} {i : Instr} :
    decode z op = .ok i ↔ decodeFamily z op = some i := by
  unfold decode
  cases decodeFamily z op <;> simp

theorem decode_eq_error_iff {z : ZeroFamilyMatch} {op : Word} :
    decode z op = .error (.unknownInstruction op) ↔ decodeFamily z op = none := by
  unfold decode
  cases decodeFamily z op <;> simp

theorem decodeFamily_of_zero {z : ZeroFamilyMatch} {op : Word} (h : (fieldHi op).toNat = 0x0) :
    decodeFamily z op = decodeZero z op := by
  simp [decodeFamily, h]

/-- Family 0 (R88): under FullWord bits 11:8 must be 0, and then the low byte decides. -/
theorem decodeZero_eq (z : ZeroFamilyMatch) (op : Word) :
    decodeZero z op = if z = .fullWord ∧ fieldX op ≠ 0 then none
      else if fieldKk op = 0xE0 then some .clear else if fieldKk op = 0xEE then some .ret else none := by
  have hx : op.extractLsb' 8 4 ≠ 0 ↔ fieldX op ≠ 0 := not_congr BitVec.toFin_inj.symm
  simp only [decodeZero, hx]
  congr 1
  split
  case h_1 h => rw [if_pos (BitVec.eq_of_toNat_eq h)]
  case h_2 h => rw [if_neg (fun e => by simp [e] at h), if_pos (BitVec.eq_of_toNat_eq h)]
  case h_3 h h' => rw [if_neg (fun e => h (congrArg _ e)), if_neg (fun e => h' (congrArg _ e))]

/-! ### Decoding an encoding (R84) -/

theorem decodeFamily_encode (z : ZeroFamilyMatch) (i : Instr) : decodeFamily z (encode i) = some i := by
  cases i
  case clear | ret => cases z <;> rfl
  case skipEqualReg => simp [encode, decodeFamily, decodeFive]
  case skipNotEqualReg => simp [encode, decodeFamily, decodeNine]
  case loadReg | orReg | andReg | xorReg | addReg | subReg | shrReg | subnReg | shlReg =>
    simp [encode, decodeFamily, decodeEight]
  case skipKeyPressed | skipKeyNotPressed => simp [encode, decodeFamily, decodeE]
  case loadDelay | waitKey | setDelay | setSound | addIndex | loadFont | storeBcd | storeRegisters | loadRegisters =>
    simp [encode, decodeFamily, decodeF]
  -- The other families have one instruction each and no second level.
  all_goals simp [encode, decodeFamily]

/-- Settles O1: the format's fields come back, so both levels of the dispatch take the instruction's own arm. -/
theorem decodeOfEncodeGivesInstruction : Obligations.DecodeOfEncodeGivesInstruction :=
  fun i z => decode_eq_ok_iff.mpr (decodeFamily_encode z i)

/-- Settles O5: each word is the encoding of the instruction it names. -/
theorem sourceExampleWordsDecode : Obligations.SourceExampleWordsDecode :=
  ⟨decodeOfEncodeGivesInstruction .clear, decodeOfEncodeGivesInstruction (.loadImm 3 0x42),
    decodeOfEncodeGivesInstruction (.setIndex 0x300), decodeOfEncodeGivesInstruction (.call 0x300),
    decodeOfEncodeGivesInstruction .ret⟩

theorem encodeXkk_inj {h h' : BitVec 4} {x x' : RegIdx} {kk kk' : Byte} :
    encodeXkk h x kk = encodeXkk h' x' kk' ↔ h = h' ∧ x = x' ∧ kk = kk' := by
  constructor
  · intro e
    exact ⟨by simpa using congrArg fieldHi e, by simpa using congrArg fieldX e, by simpa using congrArg fieldKk e⟩
  · rintro ⟨rfl, rfl, rfl⟩
    rfl

/-- A word of family 0 is written with format F_XKK, whose x is bits 11:8. -/
theorem decode_encodeXkk_zero (z : ZeroFamilyMatch) (x : RegIdx) (kk : Byte) :
    decode z (encodeXkk 0x0 x kk) = if z = .fullWord ∧ x ≠ 0 then .error (.unknownInstruction (encodeXkk 0x0 x kk))
      else if kk = 0xE0 then .ok .clear else if kk = 0xEE then .ok .ret
      else .error (.unknownInstruction (encodeXkk 0x0 x kk)) := by
  have hz : decodeFamily z (encodeXkk 0x0 x kk) = decodeZero z (encodeXkk 0x0 x kk) := decodeFamily_of_zero (by simp)
  rw [decode, hz, decodeZero_eq, fieldX_encodeXkk, fieldKk_encodeXkk]
  split_ifs <;> rfl

/-- Settles O6: a word of family 0 is 0x00E0 or 0x00EE just when bits 11:8 are 0 and the low byte is that word's. -/
theorem zeroFamilyFollowsItsParameter : Obligations.ZeroFamilyFollowsItsParameter := by
  intro b kk
  have hE0 : encodeXkk 0x0 b.toFin kk = 0x00E0 ↔ b.toFin = 0 ∧ kk = 0xE0 :=
    (encodeXkk_inj (h' := 0x0) (x' := 0) (kk' := 0xE0)).trans (and_iff_right rfl)
  have hEE : encodeXkk 0x0 b.toFin kk = 0x00EE ↔ b.toFin = 0 ∧ kk = 0xEE :=
    (encodeXkk_inj (h' := 0x0) (x' := 0) (kk' := 0xEE)).trans (and_iff_right rfl)
  refine ⟨(decode_encodeXkk_zero .lowByte b.toFin kk).trans (if_neg (by simp)),
    (decode_encodeXkk_zero .fullWord b.toFin kk).trans ?_⟩
  show _ = if encodeXkk 0x0 b.toFin kk = 0x00E0 then Except.ok Instr.clear
    else if encodeXkk 0x0 b.toFin kk = 0x00EE then .ok .ret
    else .error (DecodeError.unknownInstruction (encodeXkk 0x0 b.toFin kk))
  simp only [hE0, hEE]
  by_cases hb : b.toFin = 0 <;> simp [hb]

/-! ### Encoding what was decoded (R84) -/

theorem encodeAddr_eq_of_fields {op : Word} {h : BitVec 4} (hh : (fieldHi op).toNat = h.toNat) :
    encodeAddr h (fieldNnn op) = op := by
  apply BitVec.eq_of_toNat_eq
  rw [encodeAddr_toNat, ← hh, fieldHi_toNat, fieldNnn_toNat]
  omega

theorem encodeXkk_eq_of_fields {op : Word} {h : BitVec 4} {kk : Byte} (hh : (fieldHi op).toNat = h.toNat)
    (hkk : (fieldKk op).toNat = kk.toNat) : encodeXkk h (fieldX op) kk = op := by
  apply BitVec.eq_of_toNat_eq
  rw [encodeXkk_toNat, ← hh, ← hkk, fieldHi_toNat, fieldX_val, fieldKk_toNat]
  omega

theorem encodeXyn_eq_of_fields {op : Word} {h : BitVec 4} {n : Nibble} (hh : (fieldHi op).toNat = h.toNat)
    (hn : (fieldN op).toNat = n.toNat) : encodeXyn h (fieldX op) (fieldY op) n = op := by
  apply BitVec.eq_of_toNat_eq
  rw [encodeXyn_toNat, ← hh, ← hn, fieldHi_toNat, fieldX_val, fieldY_val, fieldN_toNat]
  omega

theorem encode_of_decodeFive {op : Word} {i : Instr} (hh : (fieldHi op).toNat = 0x5) (h : decodeFive op = some i) :
    encode i = op := by
  unfold decodeFive at h
  split at h <;> cases h
  exact encodeXyn_eq_of_fields hh (congrArg _ ‹_›)

theorem encode_of_decodeEight {op : Word} {i : Instr} (hh : (fieldHi op).toNat = 0x8) (h : decodeEight op = some i) :
    encode i = op := by
  unfold decodeEight at h
  split at h <;> cases h
  all_goals exact encodeXyn_eq_of_fields hh ‹_›

theorem encode_of_decodeNine {op : Word} {i : Instr} (hh : (fieldHi op).toNat = 0x9) (h : decodeNine op = some i) :
    encode i = op := by
  unfold decodeNine at h
  split at h <;> cases h
  exact encodeXyn_eq_of_fields hh (congrArg _ ‹_›)

theorem encode_of_decodeE {op : Word} {i : Instr} (hh : (fieldHi op).toNat = 0xE) (h : decodeE op = some i) :
    encode i = op := by
  unfold decodeE at h
  split at h <;> cases h
  all_goals exact encodeXkk_eq_of_fields hh ‹_›

theorem encode_of_decodeF {op : Word} {i : Instr} (hh : (fieldHi op).toNat = 0xF) (h : decodeF op = some i) :
    encode i = op := by
  unfold decodeF at h
  split at h <;> cases h
  all_goals exact encodeXkk_eq_of_fields hh ‹_›

/-- The dispatch's last arm is family 0xF. -/
theorem fieldHi_eq_F {op : Word} (h : ∀ k < 15, (fieldHi op).toNat ≠ k) : (fieldHi op).toNat = 0xF := by
  have hlt := (fieldHi op).isLt
  have hge : ¬ (fieldHi op).toNat < 15 := fun hk => h _ hk rfl
  omega

/-- Outside family 0 no bit of the opcode is ignored. -/
theorem encode_of_decodeFamily {z : ZeroFamilyMatch} {op : Word} {i : Instr} (h0 : (fieldHi op).toNat ≠ 0x0)
    (h : decodeFamily z op = some i) : encode i = op := by
  unfold decodeFamily at h
  split at h
  case h_1 hh => exact absurd hh h0
  case h_6 hh => exact encode_of_decodeFive hh h
  case h_9 hh => exact encode_of_decodeEight hh h
  case h_10 hh => exact encode_of_decodeNine hh h
  case h_15 hh => exact encode_of_decodeE hh h
  case h_16 => exact encode_of_decodeF (fieldHi_eq_F fun k hk => by interval_cases k <;> assumption) h
  case h_2 hh | h_3 hh | h_11 hh | h_12 hh =>
    cases h
    exact encodeAddr_eq_of_fields hh
  case h_4 hh | h_5 hh | h_7 hh | h_8 hh | h_13 hh =>
    cases h
    exact encodeXkk_eq_of_fields hh rfl
  case h_14 hh =>
    cases h
    exact encodeXyn_eq_of_fields hh rfl

/-! ### The opcode map (R95) -/

theorem and_F000_eq_iff {op v : Word} (hv : v &&& 0xF000#16 = v) :
    op &&& 0xF000#16 = v ↔ (fieldHi op).toNat = v.toNat / 4096 := by
  have hv : v.toNat / 4096 * 4096 = v.toNat := (and_F000_toNat v).symm.trans (congrArg _ hv)
  have hop : (op &&& 0xF000#16).toNat = op.toNat / 4096 * 4096 := and_F000_toNat op
  rw [← BitVec.toNat_inj, hop, fieldHi_toNat]
  omega

theorem and_F00F_eq_iff {op v : Word} (hv : v &&& 0xF00F#16 = v) :
    op &&& 0xF00F#16 = v ↔ (fieldHi op).toNat = v.toNat / 4096 ∧ (fieldN op).toNat = v.toNat % 16 := by
  have hv : v.toNat / 4096 * 4096 + v.toNat % 16 = v.toNat := (and_F00F_toNat v).symm.trans (congrArg _ hv)
  have hop : (op &&& 0xF00F#16).toNat = op.toNat / 4096 * 4096 + op.toNat % 16 := and_F00F_toNat op
  rw [← BitVec.toNat_inj, hop, fieldHi_toNat, fieldN_toNat]
  omega

theorem and_F0FF_eq_iff {op v : Word} (hv : v &&& 0xF0FF#16 = v) :
    op &&& 0xF0FF#16 = v ↔ (fieldHi op).toNat = v.toNat / 4096 ∧ (fieldKk op).toNat = v.toNat % 256 := by
  have hv : v.toNat / 4096 * 4096 + v.toNat % 256 = v.toNat := (and_F0FF_toNat v).symm.trans (congrArg _ hv)
  have hop : (op &&& 0xF0FF#16).toNat = op.toNat / 4096 * 4096 + op.toNat % 256 := and_F0FF_toNat op
  rw [← BitVec.toNat_inj, hop, fieldHi_toNat, fieldKk_toNat]
  omega

theorem and_zeroFamilyMask_eq_iff {z : ZeroFamilyMatch} {op v : Word} (hv : v &&& 0xF0FF#16 = v) :
    op &&& zeroFamilyMask z = v ↔ (fieldHi op).toNat = v.toNat / 4096 ∧ ¬ (z = .fullWord ∧ fieldX op ≠ 0) ∧
      (fieldKk op).toNat = v.toNat % 256 := by
  cases z with
  | lowByte => exact (and_F0FF_eq_iff hv).trans (by simp)
  | fullWord =>
    have hv : v.toNat / 4096 * 4096 + v.toNat % 256 = v.toNat := (and_F0FF_toNat v).symm.trans (congrArg _ hv)
    have hop : op &&& zeroFamilyMask .fullWord = op := BitVec.and_allOnes
    have hx : ¬ (ZeroFamilyMatch.fullWord = .fullWord ∧ fieldX op ≠ 0) ↔ (fieldX op).val = 0 := by
      simp [Fin.val_eq_zero_iff]
    rw [hop, hx, ← BitVec.toNat_inj, fieldHi_toNat, fieldKk_toNat, fieldX_val]
    omega

theorem encode_of_decodeZero {z : ZeroFamilyMatch} {op : Word} {i : Instr} (hh : (fieldHi op).toNat = 0x0)
    (h : decodeZero z op = some i) : (i = .clear ∨ i = .ret) ∧ encode i = op &&& zeroFamilyMask z := by
  rw [decodeZero_eq] at h
  split_ifs at h with hx hE0 hEE
  · cases h
    exact ⟨.inl rfl, ((and_zeroFamilyMask_eq_iff (by decide)).mpr ⟨hh, hx, congrArg _ hE0⟩).symm⟩
  · cases h
    exact ⟨.inr rfl, ((and_zeroFamilyMask_eq_iff (by decide)).mpr ⟨hh, hx, congrArg _ hEE⟩).symm⟩

/-- Settles O4: only family 0 ignores bits, and the mask of its two rows says which. -/
theorem encodeOfDecodeGivesOpcode : Obligations.EncodeOfDecodeGivesOpcode := by
  intro z op i h
  rw [decode_eq_ok_iff] at h
  by_cases hh : (fieldHi op).toNat = 0x0
  · rw [decodeFamily_of_zero hh] at h
    obtain ⟨hi, he⟩ := encode_of_decodeZero hh h
    cases z with
    | lowByte => exact .inr ⟨rfl, hi, he⟩
    | fullWord => exact .inl (he.trans BitVec.and_allOnes)
  · exact .inl (encode_of_decodeFamily hh h)

/-! ### Which words each second level accepts -/

theorem exists_decodeZero_iff {z : ZeroFamilyMatch} {op : Word} : (∃ i, decodeZero z op = some i) ↔
    ¬ (z = .fullWord ∧ fieldX op ≠ 0) ∧ (fieldKk op).toNat ∈ [0xE0, 0xEE] := by
  rw [decodeZero_eq]
  split_ifs with hx hE0 hEE
  · simp [hx]
  · simp [hx, hE0]
  · simp [hx, hEE]
  · have hE0 : (fieldKk op).toNat ≠ 0xE0 := fun e => hE0 (BitVec.eq_of_toNat_eq e)
    have hEE : (fieldKk op).toNat ≠ 0xEE := fun e => hEE (BitVec.eq_of_toNat_eq e)
    simp [hE0, hEE]

theorem exists_decodeFive_iff {op : Word} : (∃ i, decodeFive op = some i) ↔ (fieldN op).toNat = 0x0 := by
  unfold decodeFive
  split <;> simp_all [← BitVec.toNat_inj]

theorem exists_decodeEight_iff {op : Word} : (∃ i, decodeEight op = some i) ↔
    (fieldN op).toNat ∈ [0x0, 0x1, 0x2, 0x3, 0x4, 0x5, 0x6, 0x7, 0xE] := by
  unfold decodeEight
  split <;> simp_all

theorem exists_decodeNine_iff {op : Word} : (∃ i, decodeNine op = some i) ↔ (fieldN op).toNat = 0x0 := by
  unfold decodeNine
  split <;> simp_all [← BitVec.toNat_inj]

theorem exists_decodeE_iff {op : Word} : (∃ i, decodeE op = some i) ↔ (fieldKk op).toNat ∈ [0x9E, 0xA1] := by
  unfold decodeE
  split <;> simp_all

theorem exists_decodeF_iff {op : Word} : (∃ i, decodeF op = some i) ↔
    (fieldKk op).toNat ∈ [0x07, 0x0A, 0x15, 0x18, 0x1E, 0x29, 0x33, 0x55, 0x65] := by
  unfold decodeF
  split <;> simp_all

/-- The rows of the map as conditions on the fields, family by family. -/
theorem exists_row_iff_fields (z : ZeroFamilyMatch) (op : Word) :
    (∃ r ∈ opcodeMap z, op &&& r.mask = r.value) ↔
      ((fieldHi op).toNat = 0x0 ∧ ¬ (z = .fullWord ∧ fieldX op ≠ 0) ∧ (fieldKk op).toNat ∈ [0xE0, 0xEE]) ∨
      (fieldHi op).toNat ∈ [0x1, 0x2, 0x3, 0x4] ∨ ((fieldHi op).toNat = 0x5 ∧ (fieldN op).toNat = 0x0) ∨
      (fieldHi op).toNat ∈ [0x6, 0x7] ∨
      ((fieldHi op).toNat = 0x8 ∧ (fieldN op).toNat ∈ [0x0, 0x1, 0x2, 0x3, 0x4, 0x5, 0x6, 0x7, 0xE]) ∨
      ((fieldHi op).toNat = 0x9 ∧ (fieldN op).toNat = 0x0) ∨ (fieldHi op).toNat ∈ [0xA, 0xB, 0xC, 0xD] ∨
      ((fieldHi op).toNat = 0xE ∧ (fieldKk op).toNat ∈ [0x9E, 0xA1]) ∨
      ((fieldHi op).toNat = 0xF ∧
        (fieldKk op).toNat ∈ [0x07, 0x0A, 0x15, 0x18, 0x1E, 0x29, 0x33, 0x55, 0x65]) := by
  simp [opcodeMap, opcodeRowsLow, opcodeRowsArith, opcodeRowsHigh, and_F000_eq_iff, and_F00F_eq_iff, and_F0FF_eq_iff,
    and_zeroFamilyMask_eq_iff, and_or_left, or_assoc]

/-- In each family the rows of the map are the arms of the dispatch's second level. -/
theorem exists_row_iff (z : ZeroFamilyMatch) (op : Word) :
    (∃ r ∈ opcodeMap z, op &&& r.mask = r.value) ↔ ∃ i, decodeFamily z op = some i := by
  rw [exists_row_iff_fields]
  unfold decodeFamily
  split
  on_goal 16 => have hh : (fieldHi op).toNat = 0xF := fieldHi_eq_F fun k hk => by interval_cases k <;> assumption
  all_goals
    simp [*, exists_decodeZero_iff, exists_decodeFive_iff, exists_decodeEight_iff, exists_decodeNine_iff,
      exists_decodeE_iff, exists_decodeF_iff]

/-- Settles O2: the words the dispatch accepts are the words that select a row of the map. -/
theorem decoderAcceptsExactlyTheOpcodeMap : Obligations.DecoderAcceptsExactlyTheOpcodeMap := by
  intro z op
  rw [exists_row_iff]
  refine ⟨exists_congr fun i => decode_eq_ok_iff, decode_eq_error_iff.trans ?_⟩
  exact Option.eq_none_iff_forall_ne_some.trans not_exists.symm

/-- Two rows whose values differ on a bit that both masks examine are never selected together. -/
theorem not_selects_both {r r' : OpcodeRow} (h : r.value &&& r'.mask ≠ r'.value &&& r.mask) :
    ¬ ∃ op : Word, op &&& r.mask = r.value ∧ op &&& r'.mask = r'.value := by
  rintro ⟨op, hr, hr'⟩
  rw [← hr, ← hr', BitVec.and_assoc, BitVec.and_assoc, BitVec.and_comm r.mask] at h
  exact h rfl

/-- Settles O3: any two of the 34 rows differ on a bit that both masks examine. -/
theorem noOpcodeMatchesTwoRows : Obligations.NoOpcodeMatchesTwoRows := by
  intro z
  have hdiffer : (opcodeMap z).Pairwise (fun r r' => r.value &&& r'.mask ≠ r'.value &&& r.mask) := by
    cases z <;> decide
  exact hdiffer.imp not_selects_both

end Sys2Proof
end

section
/-! The environment's answers within an instruction (60_exceptions.md R264, R265): Random and the two key skips. -/

namespace Sys2Proof.Machine

/-- An injected byte is drawn first and used up, else a free value is drawn and counted. -/
theorem randomByte_oracle (s : State) :
    (∀ b rest, s.oracle.randomBytes = b :: rest →
      s.randomByte.1 = b ∧ s.randomByte.2.oracle = { s.oracle with randomBytes := rest }) ∧
    (s.oracle.randomBytes = [] → s.randomByte.1 = Config.randomByte s.oracle.draws ∧
      s.randomByte.2.oracle = { s.oracle with draws := s.oracle.draws + 1 }) := by
  refine ⟨fun b rest h => ?_, fun h => ?_⟩
  · rw [randomByte_injected s b rest h]
    exact ⟨rfl, rfl⟩
  · rw [randomByte_free s h]
    exact ⟨rfl, rfl⟩

/-- An injected answer is given first and used up, else a free value is given and counted. -/
theorem isPressed_oracle (s : State) (k : Key) :
    (∀ b rest, s.oracle.keyStates = b :: rest →
      (s.isPressed k).1 = b ∧ (s.isPressed k).2.oracle = { s.oracle with keyStates := rest }) ∧
    (s.oracle.keyStates = [] → (s.isPressed k).1 = Config.keyPressed s.oracle.draws k ∧
      (s.isPressed k).2.oracle = { s.oracle with draws := s.oracle.draws + 1 }) := by
  refine ⟨fun b rest h => ?_, fun h => ?_⟩
  · rw [isPressed_injected s k b rest h]
    exact ⟨rfl, rfl⟩
  · rw [isPressed_free s k h]
    exact ⟨rfl, rfl⟩

/-- Settles O20: one draw, then one register write on top of it. -/
theorem randomMasksOneDraw : Obligations.RandomMasksOneDraw := by
  intro x kk
  refine ⟨decodeOfEncodeGivesInstruction (.random x kk), fun s => ?_⟩
  obtain ⟨hinjected, hfree⟩ := randomByte_oracle s
  refine ⟨_, s.randomByte.1, rfl, by simp, ?_, hinjected, hfree⟩
  exact ((randomByte_onlyChanges s).trans (setV_onlyChanges _ x _)).mono fun _ => Or.symm

theorem skipIf_pc (s : State) (c : Bool) : (s.skipIf c).pc = if c then s.pc + 2 else s.pc := by
  cases c <;> rfl

/-- The low nibble of a register (45_input_timers.md R220). -/
theorem keyOperand_val (s : State) (x : RegIdx) : (s.keyOperand x).val = (s.getV x).toNat % 16 := by
  have hmask : (s.getV x &&& 0xF).toNat = (s.getV x).toNat % 16 := by
    rw [BitVec.toNat_and]
    exact Nat.and_two_pow_sub_one_eq_mod _ 4
  simp only [State.keyOperand, Fin.val_ofNat, hmask, Nat.mod_mod]

theorem isPressed_skipIf_onlyChanges (s : State) (k : Key) (c : Bool) :
    OnlyChanges (fun f => f = .pc ∨ f = .oracle) s ((s.isPressed k).2.skipIf c) :=
  ((isPressed_onlyChanges s k).trans (skipIf_onlyChanges _ c)).mono fun _ => Or.symm

/-- Settles O33: both skips ask one question about the same key and differ in the answer they skip on. -/
theorem keySkipsAskForTheLowNibble : Obligations.KeySkipsAskForTheLowNibble := by
  intro x
  refine ⟨decodeOfEncodeGivesInstruction (.skipKeyPressed x), decodeOfEncodeGivesInstruction (.skipKeyNotPressed x),
    fun s => ?_⟩
  obtain ⟨hinjected, hfree⟩ := isPressed_oracle s (s.keyOperand x)
  refine ⟨_, _, (s.isPressed (s.keyOperand x)).1, rfl, rfl, ?_, ?_, isPressed_skipIf_onlyChanges s _ _,
    isPressed_skipIf_onlyChanges s _ _, fun b rest h => ?_, fun h => ?_⟩
  · rw [skipIf_pc, isPressed_pc]
  · rw [skipIf_pc, isPressed_pc]
    cases (s.isPressed (s.keyOperand x)).1 <;> rfl
  · simpa using hinjected b rest h
  · obtain ⟨hp, ho⟩ := hfree h
    refine ⟨fun k hk => ?_, by simpa using ho, by simp⟩
    rw [hp, Fin.ext (hk.trans (keyOperand_val s x).symm)]

end Sys2Proof.Machine
end

section
/-! An illegal opcode (30_encoding.md R97) fails the cycle that fetches it: so does the first cycle without a ROM. -/

namespace Sys2Proof.Machine

theorem cycle_of_illegal {s : State} (hf : s.fault = none) (he : s.execState = .running) (hpc : s.pc.toNat ≤ 0xFFE)
    (h : ¬ ∃ r ∈ opcodeMap s.params.zeroFamilyMatch, s.fetchOpcode &&& r.mask = r.value) :
    cycle s = .next (s.advance.fail (.unknownInstruction s.fetchOpcode)) := by
  rw [cycle_of_fetchable hf he ((fetchable_iff s).mpr hpc)]
  exact runFetched_of_decode_error ((decoderAcceptsExactlyTheOpcodeMap _ _).2.mpr h)

theorem advance_fail_fault (s : State) (e : CoreError) :
    (s.advance.fail e).fault = some (.instructionExecutionFailed s.fetchOpcode s.pc e) := by
  simp

/-- Settles O41: the advance writes PC and the failure writes the Fault record. -/
theorem illegalOpcodeFailsCycle : Obligations.IllegalOpcodeFailsCycle := by
  intro s hf he hpc op hop
  exact ⟨_, cycle_of_illegal hf he hpc hop, advance_fail_fault s _, rfl,
    (jumpTo_onlyChanges s (s.pc + 2)).trans (fail_onlyChanges s.advance _)⟩

/-- No row of the opcode map selects the word 0, whatever ZERO_FAMILY_MATCH is. -/
theorem zero_illegal (z : ZeroFamilyMatch) : ¬ ∃ r ∈ opcodeMap z, (0x0000 : Word) &&& r.mask = r.value := by
  cases z <;> decide

/-- 0x200 and 0x201 lie outside FONT, so they read 0 until a ROM is loaded. -/
theorem construct_fetchOpcode (wp : Bool) (params : Params) (font : Vector Byte fontSize) :
    (State.construct wp params font).fetchOpcode = 0x0000 := by
  have hhigh : (State.construct wp params font).mem.get 0x200 = 0 :=
    blank_outside_font { font := font, cells := [] } 0x200 (by decide)
  have hlow : (State.construct wp params font).mem.get 0x201 = 0 :=
    blank_outside_font { font := font, cells := [] } 0x201 (by decide)
  exact congrArg₂ wordOfBytes hhigh hlow

/-- Settles O60: the word 0 is illegal. -/
theorem firstCycleWithoutRomFails : Obligations.FirstCycleWithoutRomFails := by
  intro wp params font
  have hop := construct_fetchOpcode wp params font
  refine ⟨_, cycle_of_illegal rfl rfl (show 0x200 ≤ 0xFFE by decide) (by rw [hop]; exact zero_illegal _), rfl, ?_⟩
  rw [advance_fail_fault, hop]
  rfl

end Sys2Proof.Machine
end

section
/-! The sprite engine (44_display.md R203): its loops are refined to the order-free form of R204. -/

namespace Sys2Proof.Machine

/-! ### Inverting a set of cells -/

/-- From `acc` to `acc'` exactly the covered cells are inverted, and the collision result becomes true when one of them
was on. -/
def DrawsCovered (covers : Fin 64 → Fin 32 → Prop) (acc acc' : FrameBuffer × Bool) : Prop :=
  InvertsCovered covers acc.1 acc'.1 ∧
    (acc'.2 = true ↔ acc.2 = true ∨ ∃ sx sy, covers sx sy ∧ acc.1.get sx sy = true)

theorem DrawsCovered.congr {c c' : Fin 64 → Fin 32 → Prop} {acc acc' : FrameBuffer × Bool} (h : DrawsCovered c acc acc')
    (hc : ∀ sx sy, c sx sy ↔ c' sx sy) : DrawsCovered c' acc acc' := by
  have hcells : c = c' := funext₂ fun sx sy => propext (hc sx sy)
  rwa [← hcells]

theorem drawsCovered_refl (acc : FrameBuffer × Bool) : DrawsCovered (fun _ _ => False) acc acc :=
  ⟨fun _ _ => ⟨False.elim, fun _ => rfl⟩, by simp⟩

/-- Two draws without a common cell draw together, and the second finds its cells as they were at the start. -/
theorem DrawsCovered.trans {c d : Fin 64 → Fin 32 → Prop} {acc₁ acc₂ acc₃ : FrameBuffer × Bool}
    (h₁ : DrawsCovered c acc₁ acc₂) (h₂ : DrawsCovered d acc₂ acc₃) (hdisjoint : ∀ sx sy, c sx sy → ¬ d sx sy) :
    DrawsCovered (fun sx sy => c sx sy ∨ d sx sy) acc₁ acc₃ := by
  obtain ⟨hcells₁, hflag₁⟩ := h₁
  obtain ⟨hcells₂, hflag₂⟩ := h₂
  have hkept : ∀ sx sy, d sx sy → acc₂.1.get sx sy = acc₁.1.get sx sy := fun sx sy hd =>
    (hcells₁ sx sy).2 fun hc => hdisjoint sx sy hc hd
  refine ⟨fun sx sy => ⟨?_, fun hn => ?_⟩, ?_⟩
  · rintro (hc | hd)
    · rw [(hcells₂ sx sy).2 (hdisjoint sx sy hc), (hcells₁ sx sy).1 hc]
    · rw [(hcells₂ sx sy).1 hd, hkept sx sy hd]
  · obtain ⟨hc, hd⟩ := not_or.mp hn
    rw [(hcells₂ sx sy).2 hd, (hcells₁ sx sy).2 hc]
  · have hsecond : (∃ sx sy, d sx sy ∧ acc₂.1.get sx sy = true) ↔ ∃ sx sy, d sx sy ∧ acc₁.1.get sx sy = true :=
      exists₂_congr fun sx sy => and_congr_right fun hd => by rw [hkept sx sy hd]
    rw [hflag₂, hflag₁, hsecond, or_assoc]
    simp only [or_and_right, exists_or]

theorem plot_drawsCovered (acc : FrameBuffer × Bool) (sx : Fin 64) (sy : Fin 32) :
    DrawsCovered (fun cx cy => cx = sx ∧ cy = sy) acc (plot acc sx sy) := by
  refine ⟨fun cx cy => ⟨?_, fun hc => ?_⟩, ?_⟩
  · rintro ⟨rfl, rfl⟩
    simp [plot_get]
  · rw [plot_get, if_neg hc]
  · simp [plot_collided]

/-! ### The loop over the columns of a row -/

/-- One round of the inner loop of R203. -/
def drawColumn (x : Byte) (sy : Fin 32) (row : Byte) (acc : FrameBuffer × Bool) (b : Nat) : FrameBuffer × Bool :=
  if row.getLsbD (7 - b) then plot acc (Fin.ofNat 64 (x.toNat + b)) sy else acc

theorem drawRow_eq_foldl (x : Byte) (sy : Fin 32) (row : Byte) (acc : FrameBuffer × Bool) :
    drawRow x sy row acc = (List.range 8).foldl (drawColumn x sy row) acc := rfl

theorem drawColumn_drawsCovered (x : Byte) (sy : Fin 32) (row : Byte) (acc : FrameBuffer × Bool) (b : Nat) :
    DrawsCovered (fun cx cy => cy = sy ∧ (x.toNat + b) % 64 = cx.val ∧ row.getLsbD (7 - b) = true) acc
      (drawColumn x sy row acc b) := by
  unfold drawColumn
  split
  case isTrue hbit =>
    refine (plot_drawsCovered acc _ sy).congr fun cx cy => ?_
    simp [hbit, Fin.ext_iff, and_comm, eq_comm]
  case isFalse hbit => exact (drawsCovered_refl acc).congr fun cx cy => by simp [hbit]

/-- The first `n` columns of a row have a set bit for column `sx` of the framebuffer. -/
def RowCovers (x row : Byte) (n : Nat) (sx : Fin 64) : Prop :=
  ∃ b < n, (x.toNat + b) % 64 = sx.val ∧ row.getLsbD (7 - b) = true

/-- At most 64 columns do not wrap onto each other. -/
theorem foldl_drawColumn_drawsCovered (x : Byte) (sy : Fin 32) (row : Byte) (acc : FrameBuffer × Bool) {n : Nat}
    (hn : n ≤ 64) : DrawsCovered (fun cx cy => cy = sy ∧ RowCovers x row n cx) acc
      ((List.range n).foldl (drawColumn x sy row) acc) := by
  induction n with
  | zero => exact (drawsCovered_refl acc).congr fun cx cy => by simp [RowCovers]
  | succ n ih =>
    rw [List.range_succ, List.foldl_append]
    refine ((ih (by omega)).trans (drawColumn_drawsCovered x sy row _ n) ?_).congr fun cx cy => ?_
    · rintro cx cy ⟨-, b, hb, hcx, -⟩ ⟨-, hcx', -⟩
      omega
    · simp only [RowCovers, Nat.exists_lt_succ_right, and_or_left]

theorem drawRow_drawsCovered (x : Byte) (sy : Fin 32) (row : Byte) (acc : FrameBuffer × Bool) :
    DrawsCovered (fun cx cy => cy = sy ∧ RowCovers x row 8 cx) acc (drawRow x sy row acc) := by
  rw [drawRow_eq_foldl]
  exact foldl_drawColumn_drawsCovered x sy row acc (by omega)

/-! ### The loop over the rows -/

/-- The rows drawn from row number `r` on have a set bit for the cell. -/
def RowsCover (x y : Byte) (r : Nat) (rows : List Byte) (sx : Fin 64) (sy : Fin 32) : Prop :=
  ∃ k < rows.length, (y.toNat + (r + k)) % 32 = sy.val ∧ RowCovers x (rows.getD k 0) 8 sx

theorem rowsCover_cons {x y row : Byte} {r : Nat} {rest : List Byte} {sx : Fin 64} {sy : Fin 32} :
    RowsCover x y r (row :: rest) sx sy ↔
      (sy = Fin.ofNat 32 (y.toNat + r) ∧ RowCovers x row 8 sx) ∨ RowsCover x y (r + 1) rest sx sy := by
  have hhead : (y.toNat + (r + 0)) % 32 = sy.val ↔ sy = Fin.ofNat 32 (y.toNat + r) := by
    rw [Fin.ext_iff, eq_comm]
    rfl
  simp only [RowsCover, List.length_cons, Nat.exists_lt_succ_left, hhead, List.getD_cons_zero, List.getD_cons_succ,
    Nat.add_right_comm r 1, Nat.add_assoc r]

/-- At most 32 rows do not wrap onto each other. -/
theorem drawRows_drawsCovered (x y : Byte) (r : Nat) (rows : List Byte) (acc : FrameBuffer × Bool)
    (h : rows.length ≤ 32) : DrawsCovered (RowsCover x y r rows) acc (drawRows x y r rows acc) := by
  induction rows generalizing r acc with
  | nil => exact (drawsCovered_refl acc).congr fun sx sy => by simp [RowsCover]
  | cons row rest ih =>
    simp only [List.length_cons] at h
    refine ((drawRow_drawsCovered x _ row acc).trans (ih (r + 1) _ (by omega)) ?_).congr fun sx sy =>
      rowsCover_cons.symm
    rintro sx sy ⟨rfl, -⟩ ⟨k, hk, hsy, -⟩
    simp only [Fin.val_ofNat] at hsy
    omega

theorem rowsCover_zero_iff {x y : Byte} {rows : List Byte} {sx : Fin 64} {sy : Fin 32} :
    RowsCover x y 0 rows sx sy ↔ SpriteCovers x y rows.length (fun k => rows.getD k 0) sx sy := by
  simp only [RowsCover, RowCovers, SpriteCovers, Nat.zero_add]
  exact ⟨fun ⟨k, hk, hsy, b, hb, hsx⟩ => ⟨k, b, hk, hb, hsy, hsx⟩,
    fun ⟨k, b, hk, hb, hsy, hsx⟩ => ⟨k, hk, hsy, b, hb, hsx⟩⟩

/-- The sprite engine answers the collision result of a draw that started without a collision. -/
theorem drawSprite_drawsCovered {fb : FrameBuffer} {x y : Byte} {rows : List Byte} {r : FrameBuffer × Bool}
    (h : drawSprite fb x y rows = .ok r) :
    DrawsCovered (SpriteCovers x y rows.length (fun k => rows.getD k 0)) (fb, false) r := by
  obtain ⟨-, hlen, rfl⟩ := drawSprite_ok h
  exact (drawRows_drawsCovered x y 0 rows _ (by omega)).congr fun _ _ => rowsCover_zero_iff

theorem drawSprite_eq_ok (fb : FrameBuffer) (x y : Byte) {rows : List Byte} (h : 0 < rows.length ∧ rows.length ≤ 15) :
    drawSprite fb x y rows = .ok (drawRows x y 0 rows (fb, false)) := by
  rw [drawSprite, if_neg (Nat.ne_of_gt h.1), if_neg (Nat.not_lt.mpr h.2)]

/-! ### Draw (R205) -/

theorem bytesAtI_length (s : State) (n : Nat) : (s.bytesAtI n).length = n :=
  bytesFrom_length ..

theorem bytesAtI_getD (s : State) {n k : Nat} (h : k < n) : (s.bytesAtI n).getD k 0 = s.mem.get (s.i.toNat + k) :=
  bytesFrom_getD _ _ _ _ h

theorem readAtI_eq_ok {s : State} {n : Nat} (h : s.i.toNat + n ≤ 4096) : s.readAtI n = .ok (s.bytesAtI n) := by
  have hcheck : s.checkAccess n false = none :=
    firstBadAddress_none.mpr fun k hk => ⟨by simp only [State.ea, memSize]; omega, by simp⟩
  simp [State.readAtI, hcheck]

theorem execDraw_eq_next {x y : RegIdx} {n : Nibble} {s : State} {r : FrameBuffer × Bool}
    (hread : s.i.toNat + n.toNat ≤ 4096)
    (hdraw : drawSprite s.fb (s.getV x) (s.getV y) (s.bytesAtI n.toNat) = .ok r) :
    execDraw x y n s = .next (State.setV { s with fb := r.1 } VF (flagByte r.2)) := by
  simp [execDraw, readAtI_eq_ok hread, hdraw, bind, Except.bind, pure, Except.pure, complete_ok]

/-- The rows that Draw reads stand at I. -/
theorem spriteCovers_bytesAtI (s : State) (x y : Byte) (n : Nat) :
    SpriteCovers x y (s.bytesAtI n).length (fun k => (s.bytesAtI n).getD k 0) =
      SpriteCovers x y n (fun k => s.mem.get (s.i.toNat + k)) := by
  funext sx sy
  rw [bytesAtI_length]
  refine propext (exists₂_congr fun r b => and_congr_right fun hr => ?_)
  simp only [bytesAtI_getD s hr]

/-- Settles O28: the sprite engine draws the rows at I, and VF is written after the coordinates were read. -/
theorem drawInvertsCoveredCells : Obligations.DrawInvertsCoveredCells := by
  intro x y n
  refine ⟨decodeOfEncodeGivesInstruction (.draw x y n), fun s hn hread => ?_⟩
  have hrows : 0 < (s.bytesAtI n.toNat).length ∧ (s.bytesAtI n.toNat).length ≤ 15 := by
    rw [bytesAtI_length]
    exact ⟨hn, Nat.le_of_lt_succ n.isLt⟩
  obtain ⟨r, hdraw⟩ : ∃ r, drawSprite s.fb (s.getV x) (s.getV y) (s.bytesAtI n.toNat) = .ok r :=
    ⟨_, drawSprite_eq_ok _ _ _ hrows⟩
  obtain ⟨hcells, hflag⟩ := drawSprite_drawsCovered hdraw
  rw [spriteCovers_bytesAtI] at hcells hflag
  refine ⟨_, execDraw_eq_next hread hdraw, hcells, fun hon => ?_, fun hoff => ?_, ?_⟩
  · have hr : r.2 = true := hflag.mpr (.inr hon)
    rw [setV_getV, if_pos rfl, hr]
    rfl
  · have hr : r.2 = false := Bool.eq_false_iff.mpr fun h => hoff ((hflag.mp h).resolve_left Bool.false_ne_true)
    rw [setV_getV, if_pos rfl, hr]
    rfl
  · exact ((setFb_onlyChanges s _).trans (setV_onlyChanges _ VF _)).mono fun _ => Or.symm

end Sys2Proof.Machine
end

section
/-! The cycle (40_cycle.md): a failed instruction and a failed fetch write the Fault record alone (R116, R117), a waiting
cycle polls for a key (R118), and a step runs what it decoded (R112 to R114). -/

namespace Sys2Proof.Machine

/-! ### A failed instruction -/

theorem failsWith_of_fail {i : Instr} {s : State} {e : CoreError} (h : exec i s = .next (s.fail e)) :
    FailsWith i s e :=
  ⟨_, h, rfl, fail_onlyChanges s e⟩

/-- No row of the table of R43 names the Fault record: that is left to failing. -/
theorem not_writeSet_fault (i : Instr) (s : State) : ¬ writeSet i s .fault := by
  cases i <;> simp [writeSet]

/-- Settles O42: an instruction that writes its row of the table of R43 keeps the Fault record, so one that changes it
fails. -/
theorem failedInstructionHasNoOtherEffect : Obligations.FailedInstructionHasNoOtherEffect := by
  intro i s t h hfault
  rcases exec_onlyChanges_or_fail h with hframe | ⟨e, rfl⟩
  · exact absurd (hframe .fault (not_writeSet_fault i s)) hfault
  · exact ⟨e, failsWith_of_fail h⟩

/-! ### A failed fetch -/

theorem failFetch_onlyChanges (s : State) : OnlyChanges (fun f => f = .fault) s s.failFetch := by
  intro f hf
  cases f
  case fault => exact absurd rfl hf
  all_goals rfl

/-- Settles O40: a cycle that cannot fetch is the failed fetch alone. -/
theorem fetchOutsideMemoryFails : Obligations.FetchOutsideMemoryFails := by
  intro s hf he hpc
  have hfetch : s.fetchable = false := Bool.eq_false_iff.mpr fun h => absurd ((fetchable_iff s).mp h) hpc.not_ge
  exact ⟨_, cycle_of_not_fetchable hf he hfetch, rfl, failFetch_onlyChanges s⟩

/-! ### A waiting cycle -/

/-- An injected answer is given first and used up, else a free value is given and counted. -/
theorem takeKey_oracle (s : State) :
    (∀ a rest, s.oracle.keyPresses = a :: rest →
      s.takeKey.1 = a ∧ s.takeKey.2.oracle = { s.oracle with keyPresses := rest }) ∧
    (s.oracle.keyPresses = [] → s.takeKey.1 = Config.keyTaken s.oracle.draws ∧
      s.takeKey.2.oracle = { s.oracle with draws := s.oracle.draws + 1 }) := by
  refine ⟨fun a rest h => ?_, fun h => ?_⟩
  · rw [takeKey_injected s a rest h]
    exact ⟨rfl, rfl⟩
  · rw [takeKey_free s h]
    exact ⟨rfl, rfl⟩

theorem keyByte_toNat (k : Key) : (keyByte k).toNat = k.val :=
  Nat.mod_eq_of_lt (k.isLt.trans (by decide))

theorem pollKey_of_some {s : State} {k : Key} (r : RegIdx) (h : s.takeKey.1 = some k) :
    s.pollKey r = { s.takeKey.2.setV r (keyByte k) with execState := .running } := by
  simp only [State.pollKey, h]

theorem pollKey_of_none {s : State} (r : RegIdx) (h : s.takeKey.1 = none) : s.pollKey r = s.takeKey.2 := by
  simp only [State.pollKey, h]

/-- The poll's own writes leave the oracle as the question left it. -/
theorem pollKey_oracle (s : State) (r : RegIdx) : (s.pollKey r).oracle = s.takeKey.2.oracle := by
  rcases pollKey_cases s r with ⟨k, -, h⟩ | ⟨-, h⟩ <;> rw [h]
  rfl

theorem pollKey_getV_of_some {s : State} {k : Key} (r : RegIdx) (h : s.takeKey.1 = some k) :
    (s.pollKey r).getV r = keyByte k := by
  rw [pollKey_of_some r h]
  exact (setV_getV s.takeKey.2 r r (keyByte k)).trans (if_pos rfl)

theorem pollKey_onlyChanges (s : State) (r : RegIdx) :
    OnlyChanges (fun f => f = .v r ∨ f = .execState ∨ f = .oracle) s (s.pollKey r) := by
  have htake := takeKey_onlyChanges s
  rcases pollKey_cases s r with ⟨k, -, h⟩ | ⟨-, h⟩ <;> rw [h]
  · refine ((htake.trans (setV_onlyChanges _ r _)).trans (setExecState_onlyChanges _ _)).mono ?_
    rintro f ((hf | hf) | hf) <;> simp [hf]
  · exact htake.mono fun _ hf => .inr (.inr hf)

/-- Settles O35: a waiting cycle is one poll. -/
theorem waitingCyclePollsForKey : Obligations.WaitingCyclePollsForKey := by
  intro s r hf he
  obtain ⟨hinjected, hfree⟩ := takeKey_oracle s
  refine ⟨s.pollKey r, s.takeKey.1, cycle_of_waiting hf he, fun k hk => ⟨?_, ?_, pollKey_onlyChanges s r⟩,
    fun hnone => ?_, ?_, ?_⟩
  · rw [pollKey_getV_of_some r hk, keyByte_toNat]
  · rw [pollKey_of_some r hk]
  · rw [pollKey_of_none r hnone]
    exact takeKey_onlyChanges s
  · rw [pollKey_oracle]
    exact hinjected
  · rw [pollKey_oracle]
    exact hfree

/-! ### A cycle that fetches -/

theorem cycle_of_decoded {s : State} {i : Instr} (hf : s.fault = none) (he : s.execState = .running)
    (hpc : s.pc.toNat ≤ 0xFFE) (hi : decode s.params.zeroFamilyMatch s.fetchOpcode = .ok i) :
    cycle s = exec i s.advance := by
  rw [cycle_of_fetchable hf he ((fetchable_iff s).mpr hpc)]
  exact runFetched_of_decode_ok hi

/-- Settles O39: both forms of the driver run one cycle, of `s` itself or of `s` with the call taken off the schedule. -/
theorem stepRunsTheDecodedInstruction : Obligations.StepRunsTheDecodedInstruction := by
  intro s i hf he hpc hi
  refine ⟨fun hs => ?_, fun rest hs => ?_⟩
  · rw [step_of_schedule_nil hs]
    exact congrArg withFreeTicks (cycle_of_decoded hf he hpc hi)
  · rw [step_of_executeCycle hs]
    exact cycle_of_decoded (s := { s with schedule := rest }) hf he hpc hi

end Sys2Proof.Machine
end

section
/-! Control transfer (41_control_flow.md): what each jump, call, return and skip does to PC and the call stack, and what
it leaves unchanged. -/

namespace Sys2Proof.Machine

/-! ### Return and Call (R130, R131) -/

theorem exec_ret_of_empty {s : State} (h : s.sp.val = 0) : exec .ret s = .next (s.fail .stackUnderflow) :=
  congrArg s.complete (pop_eq_error h)

theorem exec_ret_of_succ {s : State} (k : Fin 16) (h : k.val + 1 = s.sp.val) :
    exec .ret s = .next { s with sp := k.castSucc, pc := s.stack[k] } :=
  congrArg s.complete (pop_eq_ok k h)

theorem exec_call_of_full (nnn : Addr12) {s : State} (h : s.sp.val = 16) :
    exec (.call nnn) s = .next (s.fail .stackOverflow) := by
  simp only [exec, execCall, push_eq_error h]
  rfl

theorem exec_call_of_push (nnn : Addr12) {s p : State} (h : s.push = .ok p) :
    exec (.call nnn) s = .next (p.jumpTo (zextAddr nnn)) := by
  simp only [exec, execCall, h]
  rfl

/-- Settles O7: Return pops, and an empty stack fails it. -/
theorem returnPopsOrUnderflows : Obligations.ReturnPopsOrUnderflows := by
  refine ⟨decodeOfEncodeGivesInstruction .ret, fun s => ⟨fun h => failsWith_of_fail (exec_ret_of_empty h), ?_⟩⟩
  intro k hk
  exact ⟨_, exec_ret_of_succ k hk, rfl, rfl, pop_onlyChanges (pop_eq_ok k hk)⟩

/-- A push at SP = k writes SP and slot k alone. -/
theorem push_onlyChanges_at {s p : State} {k : Fin 16} (hk : k.val = s.sp.val) (h : s.push = .ok p) :
    OnlyChanges (fun f => f = .sp ∨ f = .stack k) s p := by
  refine (push_onlyChanges h).mono ?_
  rintro f (hf | ⟨j, hj, hf⟩)
  · exact .inl hf
  · obtain rfl : j = k := Fin.ext (hj.trans hk.symm)
    exact .inr hf

/-- Settles O8: Call pushes, then writes PC; a full stack fails it. -/
theorem callPushesOrOverflows : Obligations.CallPushesOrOverflows := by
  intro nnn
  refine ⟨decodeOfEncodeGivesInstruction (.call nnn), fun s =>
    ⟨fun h => failsWith_of_fail (exec_call_of_full nnn h), fun k hk => ?_⟩⟩
  have hpush := push_eq_ok k hk
  obtain ⟨-, -, hsp, hstack⟩ := push_ok hpush
  exact ⟨_, exec_call_of_push nnn hpush, (hstack k).trans (if_pos hk), hsp, zextAddr_toNat nnn,
    ((push_onlyChanges_at hk hpush).trans (jumpTo_onlyChanges _ _)).mono fun f hf => Or.symm hf⟩

/-- A part that was written but reads as before need not be named in the frame. -/
theorem OnlyChanges.of_restored {p q : Field → Prop} {s t : State} (h : OnlyChanges p s t)
    (hrestored : ∀ f, p f → ¬ q f → Unchanged s t f) : OnlyChanges q s t := by
  intro f hq
  by_cases hp : p f
  · exact hrestored f hp hq
  · exact h f hp

/-- Settles O9: Return pops the slot that Call pushed, so PC and SP read as before the Call. -/
theorem callThenReturnResumesAfterCall : Obligations.CallThenReturnResumesAfterCall := by
  intro nnn s k hk
  obtain ⟨-, hcall⟩ := callPushesOrOverflows nnn
  obtain ⟨-, hret⟩ := returnPopsOrUnderflows
  obtain ⟨t, ht, htk, htsp, -, htframe⟩ := (hcall s).2 k hk
  obtain ⟨u, hu, husp, hupc, huframe⟩ := (hret t.advance).2 k (by rw [advance_sp, htsp, hk])
  have hpc : u.pc = s.pc := hupc.trans htk
  have hsp : u.sp = s.sp := Fin.ext (husp.trans hk)
  have hadvance : OnlyChanges (fun f => f = .pc) t t.advance := jumpTo_onlyChanges t (t.pc + 2)
  have hframe : OnlyChanges (fun f => f = .pc ∨ f = .sp ∨ f = .stack k) s u :=
    ((htframe.trans hadvance).trans huframe).mono (by rintro f ((hf | hf) | (hf | hf)) <;> simp [hf])
  refine ⟨t, u, ht, hu, hpc, hframe.of_restored ?_⟩
  rintro f (rfl | rfl | hf) hq
  · exact hpc
  · exact hsp
  · exact absurd hf hq

/-! ### Jumps (R132, R133) -/

theorem zextAddr_add_zextByte_toNat (nnn : Addr12) (b : Byte) :
    (zextAddr nnn + zextByte b).toNat = nnn.toNat + b.toNat := by
  have := nnn.isLt
  have := b.isLt
  rw [BitVec.toNat_add, zextAddr_toNat, zextByte_toNat]
  omega

/-- Settles O10: the sum of a 12-bit target and a byte fits in PC. -/
theorem jumpsSetPcExactly : Obligations.JumpsSetPcExactly := by
  intro nnn
  refine ⟨decodeOfEncodeGivesInstruction (.jump nnn), decodeOfEncodeGivesInstruction (.jumpWithV0 nnn), fun s => ⟨?_, ?_⟩⟩
  · exact ⟨_, rfl, zextAddr_toNat nnn, jumpTo_onlyChanges s _⟩
  · exact ⟨_, rfl, zextAddr_add_zextByte_toNat nnn (s.getV 0), jumpTo_onlyChanges s _⟩

/-! ### Skips (R134 to R138) -/

/-- What R138 says of every instruction that is one conditional skip, with its condition `p` as the rule states it. -/
theorem exec_of_skipIf {i : Instr} {s : State} {c : Bool} {p : Prop} [Decidable p]
    (h : exec i s = .next (s.skipIf c)) (hc : c = true ↔ p) :
    ∃ t, exec i s = .next t ∧ t.pc = (if p then s.pc + 2 else s.pc) ∧ OnlyChanges (fun f => f = .pc) s t :=
  ⟨_, h, by rw [skipIf_pc, if_congr hc rfl rfl], skipIf_onlyChanges s c⟩

/-- Settles O11: both are one conditional skip. -/
theorem immediateSkipsAddTwoToPc : Obligations.ImmediateSkipsAddTwoToPc := fun x kk =>
  ⟨decodeOfEncodeGivesInstruction (.skipEqualImm x kk), decodeOfEncodeGivesInstruction (.skipNotEqualImm x kk),
    fun _ => ⟨exec_of_skipIf rfl beq_iff_eq, exec_of_skipIf rfl bne_iff_ne⟩⟩

theorem decode_five_eq_error (z : ZeroFamilyMatch) (x y : RegIdx) {n : Nibble} (hn : n ≠ 0x0) :
    decode z (encodeXyn 0x5 x y n) = .error (.unknownInstruction (encodeXyn 0x5 x y n)) :=
  decode_eq_error_iff.mpr (by simpa [decodeFamily, decodeFive] using hn)

theorem decode_nine_eq_error (z : ZeroFamilyMatch) (x y : RegIdx) {n : Nibble} (hn : n ≠ 0x0) :
    decode z (encodeXyn 0x9 x y n) = .error (.unknownInstruction (encodeXyn 0x9 x y n)) :=
  decode_eq_error_iff.mpr (by simpa [decodeFamily, decodeNine] using hn)

/-- Settles O12: both are one conditional skip, and their families accept the low nibble 0 alone (R89). -/
theorem registerSkipsAddTwoToPc : Obligations.RegisterSkipsAddTwoToPc := fun x y =>
  ⟨decodeOfEncodeGivesInstruction (.skipEqualReg x y), decodeOfEncodeGivesInstruction (.skipNotEqualReg x y),
    fun _ hn z => ⟨decode_five_eq_error z x y hn, decode_nine_eq_error z x y hn⟩,
    fun _ => ⟨exec_of_skipIf rfl beq_iff_eq, exec_of_skipIf rfl bne_iff_ne⟩⟩

end Sys2Proof.Machine
end

section
/-! Arithmetic and logic (42_alu.md): what each instruction writes to V[x] and VF, and what it leaves unchanged. -/

namespace Sys2Proof.Machine

/-! ### One register write (R151 to R156) -/

/-- What every instruction that is one register write answers. -/
theorem exec_of_setV {i : Instr} {s : State} {x : RegIdx} {b : Byte} (h : exec i s = .next (s.setV x b)) :
    ∃ t, exec i s = .next t ∧ t.getV x = b ∧ OnlyChanges (fun f => f = .v x) s t :=
  ⟨_, h, (setV_getV s x x b).trans (if_pos rfl), setV_onlyChanges s x b⟩

/-- Settles O13: both are one register write. -/
theorem loadsWriteOnlyVx : Obligations.LoadsWriteOnlyVx := fun x =>
  ⟨fun kk => ⟨decodeOfEncodeGivesInstruction (.loadImm x kk), fun _ => exec_of_setV rfl⟩,
    fun y => ⟨decodeOfEncodeGivesInstruction (.loadReg x y), fun _ => exec_of_setV rfl⟩⟩

/-- Settles O14: a sum of bytes wraps modulo 256. -/
theorem addImmWrapsWithoutFlag : Obligations.AddImmWrapsWithoutFlag := by
  intro x kk
  refine ⟨decodeOfEncodeGivesInstruction (.addImm x kk), fun s => ?_⟩
  obtain ⟨t, ht, hx, hframe⟩ := exec_of_setV (i := .addImm x kk) (s := s) rfl
  exact ⟨t, ht, by rw [hx, BitVec.toNat_add], hframe⟩

/-- An instruction that writes a combination of two registers is bitwise when the combination is. -/
theorem exec_of_setV_bitwise {i : Instr} {s : State} {x : RegIdx} {b : Byte} {bit : Nat → Bool}
    (h : exec i s = .next (s.setV x b)) (hbit : ∀ j, b.getLsbD j = bit j) :
    ∃ t, exec i s = .next t ∧ OnlyChanges (fun f => f = .v x) s t ∧ ∀ j < 8, (t.getV x).getLsbD j = bit j := by
  obtain ⟨t, ht, hx, hframe⟩ := exec_of_setV h
  exact ⟨t, ht, hframe, fun j _ => by rw [hx, hbit]⟩

/-- Settles O15: each is one register write of a bitwise combination. -/
theorem bitwiseInstructionsWorkPerBit : Obligations.BitwiseInstructionsWorkPerBit := fun x y =>
  ⟨decodeOfEncodeGivesInstruction (.orReg x y), decodeOfEncodeGivesInstruction (.andReg x y),
    decodeOfEncodeGivesInstruction (.xorReg x y), fun _ =>
      ⟨exec_of_setV_bitwise rfl fun _ => BitVec.getLsbD_or, exec_of_setV_bitwise rfl fun _ => BitVec.getLsbD_and,
        exec_of_setV_bitwise rfl fun _ => BitVec.getLsbD_xor⟩⟩

/-! ### Result, then flag (R157, R158, R160) -/

/-- What every instruction that writes its result and then its flag answers: the flag is last, so it stands also when
the destination is VF (R165). -/
theorem exec_of_setResultThenFlag {i : Instr} {s : State} {x : RegIdx} {result flag : Byte}
    (h : exec i s = .next (s.setResultThenFlag x result flag)) :
    ∃ t, exec i s = .next t ∧ (x ≠ VF → t.getV x = result) ∧ t.getV VF = flag ∧
      OnlyChanges (fun f => f = .v x ∨ f = .v VF) s t := by
  refine ⟨_, h, fun hx => ?_, ?_, setResultThenFlag_onlyChanges s x result flag⟩
  · rw [setResultThenFlag_getV, if_neg hx, if_pos rfl]
  · rw [setResultThenFlag_getV, if_pos rfl]

theorem flagByte_decide (p : Prop) [Decidable p] : flagByte (decide p) = if p then 1 else 0 := by
  simp only [flagByte, decide_eq_true_eq]

/-- Settles O16: the carry is computed from the operands before either write. -/
theorem addRegSetsCarry : Obligations.AddRegSetsCarry := by
  intro x y
  refine ⟨decodeOfEncodeGivesInstruction (.addReg x y), fun s => ?_⟩
  obtain ⟨t, ht, hresult, hflag, hframe⟩ := exec_of_setResultThenFlag (i := .addReg x y) (s := s) rfl
  exact ⟨t, ht, fun hx => by rw [hresult hx, BitVec.toNat_add], hflag.trans (flagByte_decide _), hframe⟩

/-- A difference of bytes is the integer difference modulo 256. -/
theorem byte_sub_toNat (a b : Byte) : ((a - b).toNat : Int) = (a.toNat - b.toNat : Int) % 256 := by
  have := b.isLt
  rw [BitVec.toNat_sub]
  omega

/-- What an instruction that subtracts `b` from `a` answers, whichever register each comes from. -/
theorem exec_of_subtraction {i : Instr} {s : State} {x : RegIdx} {a b : Byte}
    (h : exec i s = .next (s.setResultThenFlag x (a - b) (noBorrowFlag a b))) :
    ∃ t, exec i s = .next t ∧ (x ≠ VF → ((t.getV x).toNat : Int) = (a.toNat - b.toNat : Int) % 256) ∧
      t.getV VF = (if a.toNat ≥ b.toNat then 1 else 0) ∧ OnlyChanges (fun f => f = .v x ∨ f = .v VF) s t := by
  obtain ⟨t, ht, hresult, hflag, hframe⟩ := exec_of_setResultThenFlag h
  exact ⟨t, ht, fun hx => by rw [hresult hx, byte_sub_toNat], hflag.trans (flagByte_decide _), hframe⟩

/-- Settles O17: the two are one subtraction with its operands exchanged. -/
theorem subtractionsSetNoBorrow : Obligations.SubtractionsSetNoBorrow := fun x y =>
  ⟨decodeOfEncodeGivesInstruction (.subReg x y), decodeOfEncodeGivesInstruction (.subnReg x y),
    fun _ => ⟨exec_of_subtraction rfl, exec_of_subtraction rfl⟩⟩

/-! ### Shifts (R159, R161, R165) -/

/-- What every instruction that is one shift answers: the policy matters only when the destination is VF. -/
theorem exec_of_setShift {i : Instr} {s : State} {x : RegIdx} {flag shift : Byte → Byte}
    (h : exec i s = .next (s.setShift x flag shift)) :
    ∃ t, exec i s = .next t ∧ (x ≠ VF → t.getV x = shift (s.getV x) ∧ t.getV VF = flag (s.getV x)) ∧
      (x = VF → t.getV VF =
        if s.params.vfDestPolicy = .sequential then shift (flag (s.getV VF)) else flag (s.getV VF)) ∧
      OnlyChanges (fun f => f = .v x ∨ f = .v VF) s t := by
  refine ⟨_, h, fun hx => ⟨?_, ?_⟩, fun hx => ?_, setShift_onlyChanges s x flag shift⟩
  · rw [setShift_getV_of_ne_VF _ _ _ _ _ hx, if_neg hx, if_pos rfl]
  · rw [setShift_getV_of_ne_VF _ _ _ _ _ hx, if_pos rfl]
  · rw [hx, setShift_getV_VF, if_pos rfl]

theorem lowBitFlag_toNat (a : Byte) : (lowBitFlag a).toNat = a.toNat % 2 :=
  (BitVec.toNat_and a 1).trans (Nat.and_one_is_mod _)

theorem shiftRight_one_toNat (a : Byte) : (a >>> 1).toNat = a.toNat / 2 := by
  rw [BitVec.toNat_ushiftRight, Nat.shiftRight_eq_div_pow, pow_one]

theorem shiftLeft_one_toNat (a : Byte) : (a <<< 1).toNat = 2 * a.toNat % 256 := by
  rw [BitVec.toNat_shiftLeft, Nat.shiftLeft_eq, pow_one, Nat.mul_comm]

/-- Masking bit 7 and moving it down is moving down first and masking bit 0. -/
theorem highBitFlag_eq_lowBitFlag (a : Byte) : highBitFlag a = lowBitFlag (a >>> 7) :=
  BitVec.ushiftRight_and_distrib a 0x80 7

theorem highBitFlag_toNat (a : Byte) : (highBitFlag a).toNat = a.toNat / 128 := by
  have := a.isLt
  rw [highBitFlag_eq_lowBitFlag, lowBitFlag_toNat, BitVec.toNat_ushiftRight, Nat.shiftRight_eq_div_pow]
  omega

/-- Settles O18: VF's own bit 0 shifted right by one is 0. -/
theorem shrRegShiftsVxRight : Obligations.ShrRegShiftsVxRight := by
  intro x y
  refine ⟨decodeOfEncodeGivesInstruction (.shrReg x y), fun s => ?_⟩
  obtain ⟨t, ht, hne, heq, hframe⟩ := exec_of_setShift (i := .shrReg x y) (s := s) rfl
  refine ⟨t, ht, fun hx => ?_, fun hx => ?_, hframe⟩
  · obtain ⟨hresult, hflag⟩ := hne hx
    rw [hresult, hflag]
    exact ⟨shiftRight_one_toNat _, lowBitFlag_toNat _⟩
  · have hzero : (s.getV VF).toNat % 2 / 2 = 0 := by omega
    rw [heq hx, apply_ite BitVec.toNat, shiftRight_one_toNat, lowBitFlag_toNat, hzero]

/-- Settles O19: VF's own bit 7 shifted left by one is twice that bit, which does not wrap. -/
theorem shlRegShiftsVxLeft : Obligations.ShlRegShiftsVxLeft := by
  intro x y
  refine ⟨decodeOfEncodeGivesInstruction (.shlReg x y), fun s => ?_⟩
  obtain ⟨t, ht, hne, heq, hframe⟩ := exec_of_setShift (i := .shlReg x y) (s := s) rfl
  refine ⟨t, ht, fun hx => ?_, fun hx => ?_, hframe⟩
  · obtain ⟨hresult, hflag⟩ := hne hx
    rw [hresult, hflag]
    exact ⟨shiftLeft_one_toNat _, highBitFlag_toNat _⟩
  · have hwrap : 2 * ((s.getV VF).toNat / 128) % 256 = 2 * ((s.getV VF).toNat / 128) := by
      have := (s.getV VF).isLt
      omega
    rw [heq hx, apply_ite BitVec.toNat, shiftLeft_one_toNat, highBitFlag_toNat, hwrap]

end Sys2Proof.Machine
end

section
/-! The index register and the memory instructions (43_index_memory.md), and Draw's failures: what the checks of R183 let
pass, and the lowest failing address otherwise. -/

namespace Sys2Proof.Machine

/-! ### An instruction that may fail (R120) -/

theorem failsWith_of_complete {i : Instr} {s : State} {r : Except CoreError State} {e : CoreError}
    (h : exec i s = s.complete r) (hr : r = .error e) : FailsWith i s e :=
  failsWith_of_fail (by rw [h, hr, complete_error])

theorem exec_of_complete {i : Instr} {s t : State} {r : Except CoreError State}
    (h : exec i s = s.complete r) (hr : r = .ok t) : exec i s = .next t := by
  rw [h, hr, complete_ok]

/-! ### The index register (R180 to R182) -/

/-- What every instruction that is one write of I answers, with the value as the rule states it. -/
theorem exec_of_setI {i : Instr} {s : State} {w : Word} {n : Nat} (h : exec i s = .next (s.setI w)) (hw : w.toNat = n) :
    ∃ t, exec i s = .next t ∧ t.i.toNat = n ∧ OnlyChanges (fun f => f = .i) s t :=
  ⟨_, h, hw, setI_onlyChanges s w⟩

theorem index_add_zextByte_toNat (i : Word) (b : Byte) : (i + zextByte b).toNat = (i.toNat + b.toNat) % 65536 := by
  rw [BitVec.toNat_add, zextByte_toNat]

/-- Settles O21: both are one write of I. -/
theorem indexWritesAreSixteenBits : Obligations.IndexWritesAreSixteenBits :=
  ⟨fun nnn => ⟨decodeOfEncodeGivesInstruction (.setIndex nnn), fun _ => exec_of_setI rfl (zextAddr_toNat nnn)⟩,
    fun x => ⟨decodeOfEncodeGivesInstruction (.addIndex x), fun s =>
      exec_of_setI rfl (index_add_zextByte_toNat s.i (s.getV x))⟩⟩

/-- Settles O22: the address and the error are those of the font address (R62), asked for the whole register. -/
theorem loadFontAddressesGlyphOrFails : Obligations.LoadFontAddressesGlyphOrFails := by
  intro x
  refine ⟨decodeOfEncodeGivesInstruction (.loadFont x), fun s => ⟨fun hdigit => ?_, fun hdigit => ?_⟩⟩
  · obtain ⟨w, hw, haddress⟩ := (fontGlyphAddressOrInvalidDigit (s.getV x).toNat).1 (by omega)
    refine exec_of_setI (exec_of_complete rfl (congrArg (Except.map s.setI) hw)) ?_
    omega
  · have hbad := (fontGlyphAddressOrInvalidDigit (s.getV x).toNat).2 (by omega)
    exact failsWith_of_complete rfl (congrArg (Except.map s.setI) hbad)

/-! ### The checked accesses at I (R183) -/

/-- With no protected address before it, the lowest address out of range is reported. -/
theorem firstBadAddress_eq_outOfBounds {wp write : Bool} {a n : Nat} (hn : 0 < n) (hout : 4096 < a + n)
    (hprot : write = true → 0x1FF < a) : firstBadAddress wp write a n = some (.outOfBounds (max a 4096 : Nat)) := by
  induction n generalizing a with
  | zero => omega
  | succ n ih =>
    unfold firstBadAddress
    by_cases ha : 4096 ≤ a
    · rw [if_pos ha, Nat.max_eq_left ha]
    · have hfree : ¬ (write = true ∧ wp = true ∧ a ≤ 0x1FF) := fun ⟨hwrite, _, hle⟩ => by
        have := hprot hwrite
        omega
      rw [if_neg ha, if_neg hfree, ih (by omega) (by omega) fun hwrite => Nat.lt_succ_of_lt (hprot hwrite),
        Nat.max_eq_right (by omega), Nat.max_eq_right (by omega)]

theorem firstBadAddress_eq_writeProtected {a n : Nat} (hn : 0 < n) (ha : a ≤ 0x1FF) :
    firstBadAddress true true a n = some (.writeProtected a) := by
  obtain ⟨n, rfl⟩ := Nat.exists_eq_succ_of_ne_zero hn.ne'
  have hin : ¬ 4096 ≤ a := by omega
  exact (if_neg hin).trans (if_pos ⟨rfl, rfl, ha⟩)

theorem readAtI_eq_outOfBounds {s : State} {n : Nat} (hn : 0 < n) (hout : 4096 < s.i.toNat + n) :
    s.readAtI n = .error (.outOfBounds (max s.i.toNat 4096 : Nat)) := by
  have hcheck : s.checkAccess n false = some (.outOfBounds (max s.i.toNat 4096 : Nat)) :=
    firstBadAddress_eq_outOfBounds hn hout Bool.false_ne_true.elim
  simp only [State.readAtI, hcheck]

theorem writeAtI_eq_ok {s : State} {l : List Byte} (hin : s.i.toNat + l.length ≤ 4096)
    (hprot : ¬ (s.wp = true ∧ s.i.toNat ≤ 0x1FF)) :
    s.writeAtI l = .ok { s with mem := s.mem.storeBytes (s.ea 0) l } := by
  have hcheck : s.checkAccess l.length true = none := firstBadAddress_none.mpr fun k hk => by
    simp only [State.ea, memSize, protectedTop]
    exact ⟨by omega, fun ⟨_, hwp, hle⟩ => hprot ⟨hwp, by omega⟩⟩
  simp only [State.writeAtI, hcheck]

theorem writeAtI_eq_outOfBounds {s : State} {l : List Byte} (hl : 0 < l.length) (hout : 4096 < s.i.toNat + l.length)
    (hprot : 0x1FF < s.i.toNat) : s.writeAtI l = .error (.outOfBounds (max s.i.toNat 4096 : Nat)) := by
  have hcheck : s.checkAccess l.length true = some (.outOfBounds (max s.i.toNat 4096 : Nat)) :=
    firstBadAddress_eq_outOfBounds hl hout fun _ => hprot
  simp only [State.writeAtI, hcheck]

theorem writeAtI_eq_writeProtected {s : State} {l : List Byte} (hl : 0 < l.length) (hwp : s.wp = true)
    (hlow : s.i.toNat ≤ 0x1FF) : s.writeAtI l = .error (.writeProtected (s.i.toNat : Nat)) := by
  have hcheck : s.checkAccess l.length true = some (.writeProtected (s.i.toNat : Nat)) := by
    rw [State.checkAccess, hwp]
    exact firstBadAddress_eq_writeProtected hl hlow
  simp only [State.writeAtI, hcheck]

theorem storeAtI_get (s : State) {l : List Byte} {k : Nat} (h : k < l.length) :
    (s.mem.storeBytes (s.ea 0) l).get (s.i.toNat + k) = l.getD k 0 := by
  rw [List.getD_eq_getElem _ _ h]
  exact storeBytes_get_inside s.mem (s.ea 0) h

/-! ### Fx33 (R184) -/

/-- Settles O23: three bytes are stored at I, or the first failing address is reported. -/
theorem storeBcdWritesDigitsOrFails : Obligations.StoreBcdWritesDigitsOrFails := by
  intro x
  refine ⟨decodeOfEncodeGivesInstruction (.storeBcd x), fun s => ⟨fun hin hprot => ?_, fun hout => ?_, fun hwp hlow => ?_⟩⟩
  · have hwrite := writeAtI_eq_ok (l := bcdDigits (s.getV x)) hin hprot
    have hget {k : Nat} (hk : k < 3) := congrArg BitVec.toNat (storeAtI_get s (l := bcdDigits (s.getV x)) hk)
    refine ⟨_, exec_of_complete rfl hwrite, ?_, ?_, ?_, storeAtI_onlyChanges s (bcdDigits (s.getV x))⟩
    · exact (hget (k := 0) (by omega)).trans BitVec.toNat_udiv
    · exact (hget (k := 1) (by omega)).trans (BitVec.toNat_umod.trans (congrArg (· % 10) BitVec.toNat_udiv))
    · exact (hget (k := 2) (by omega)).trans BitVec.toNat_umod
  · exact failsWith_of_complete rfl (writeAtI_eq_outOfBounds (Nat.succ_pos 2) (Nat.lt_succ_of_le hout) (by omega))
  · exact failsWith_of_complete rfl (writeAtI_eq_writeProtected (Nat.succ_pos 2) hwp hlow)

/-! ### Fx55 and Fx65 (R186 to R188) -/

theorem stepIndex_i_toNat (s : State) (x : RegIdx) : (s.stepIndex x).i.toNat =
    if s.params.loadStoreIncrementsI then (s.i.toNat + x.val + 1) % 65536 else s.i.toNat := by
  unfold State.stepIndex
  split
  · rw [setI_i, BitVec.toNat_add, BitVec.toNat_ofNat, Nat.add_mod_mod, Nat.add_assoc]
  · rfl

/-- Settles O24: V0..Vx are stored at I, or the first failing address is reported; I moves afterwards. -/
theorem storeRegistersWritesOrFails : Obligations.StoreRegistersWritesOrFails := by
  intro x
  refine ⟨decodeOfEncodeGivesInstruction (.storeRegisters x), fun s => ?_⟩
  have hlen := registersUpTo_length s x
  refine ⟨fun hin hprot => ?_, fun hout => ?_, fun hwp hlow => ?_⟩
  · have hwrite := writeAtI_eq_ok (l := s.registersUpTo x) (by omega) hprot
    refine ⟨_, exec_of_complete rfl (congrArg (Except.map (·.stepIndex x)) hwrite), fun k hk => ?_, ?_, ?_⟩
    · rw [stepIndex_mem, ← registersUpTo_getD s x k hk]
      exact storeAtI_get s (hlen ▸ Nat.lt_succ_of_le hk)
    · exact stepIndex_i_toNat _ x
    · refine ((storeAtI_onlyChanges s _).trans (stepIndex_onlyChanges _ x)).mono ?_
      rintro f (⟨k, hk, hf⟩ | ⟨-, hf⟩)
      · exact .inr ⟨k, by omega, hf⟩
      · exact .inl hf
  · have hbad := writeAtI_eq_outOfBounds (s := s) (l := s.registersUpTo x) (by omega) (by omega) (by omega)
    exact failsWith_of_complete rfl (congrArg (Except.map (·.stepIndex x)) hbad)
  · have hbad := writeAtI_eq_writeProtected (s := s) (l := s.registersUpTo x) (by omega) hwp hlow
    exact failsWith_of_complete rfl (congrArg (Except.map (·.stepIndex x)) hbad)

/-- Settles O25: V0..Vx are read at I, or the first address out of range is reported; I moves afterwards. -/
theorem loadRegistersReadsOrFails : Obligations.LoadRegistersReadsOrFails := by
  intro x
  refine ⟨decodeOfEncodeGivesInstruction (.loadRegisters x), fun s => ⟨fun hin => ?_, fun hout => ?_⟩⟩
  · have hread := readAtI_eq_ok (s := s) (n := x.val + 1) (by omega)
    refine ⟨_, exec_of_complete rfl (congrArg (Except.map _) hread), fun k hk => ?_, ?_, ?_⟩
    · rw [stepIndex_getV, setRegistersUpTo_getV, if_pos hk]
      exact bytesAtI_getD s (Nat.lt_succ_of_le hk)
    · exact stepIndex_i_toNat _ x
    · refine ((setRegistersUpTo_onlyChanges s x _).trans (stepIndex_onlyChanges _ x)).mono ?_
      rintro f (hf | ⟨-, hf⟩)
      · exact .inr hf
      · exact .inl hf
  · have hbad := readAtI_eq_outOfBounds (s := s) (n := x.val + 1) (by omega) (by omega)
    exact failsWith_of_complete rfl (congrArg (Except.map _) hbad)

/-- Settles O26: Fx55 left I alone, so Fx65 reads the bytes it stored. -/
theorem loadAfterStoreRestoresRegisters : Obligations.LoadAfterStoreRestoresRegisters := by
  intro x s t hkeep hstore _ hin hprot v
  obtain ⟨-, hstores⟩ := storeRegistersWritesOrFails x
  obtain ⟨-, hloads⟩ := loadRegistersReadsOrFails x
  obtain ⟨t', ht', hmem, hi, -⟩ := (hstores s).1 hin hprot
  obtain rfl : t = t' := Host.Outcome.next.inj (hstore.symm.trans ht')
  have hindex : t.i.toNat = s.i.toNat := by simpa [hkeep] using hi
  obtain ⟨u, hu, hregs, -⟩ := (hloads { t with v := v }).1 (by rw [hindex]; exact hin)
  refine ⟨u, hu, fun k hk => ?_⟩
  calc u.getV k = t.mem.get (t.i.toNat + k.val) := hregs k hk
    _ = t.mem.get (s.i.toNat + k.val) := by rw [hindex]
    _ = s.getV k := hmem k hk

/-! ### Draw's failures (R205) -/

/-- No address is checked for no rows, so the sprite engine's own check fails first. -/
theorem exec_draw_of_no_rows (x y : RegIdx) (s : State) : exec (.draw x y 0) s = .next (s.fail .emptySpriteData) := rfl

theorem exec_draw_of_readAtI_error {x y : RegIdx} {n : Nibble} {s : State} {e : CoreError}
    (h : s.readAtI n.toNat = .error e) : exec (.draw x y n) s = .next (s.fail e) := by
  simp only [exec, execDraw, h]
  rfl

/-- Settles O29: no rows fail the sprite engine's check, rows past the end of Mem the read before it. -/
theorem drawFailsOnEmptyOrOutOfBounds : Obligations.DrawFailsOnEmptyOrOutOfBounds := fun x y s =>
  ⟨failsWith_of_fail (exec_draw_of_no_rows x y s), fun _ hn hout =>
    failsWith_of_fail (exec_draw_of_readAtI_error (readAtI_eq_outOfBounds hn hout))⟩

end Sys2Proof.Machine
end

section
/-! The display (44_display.md): Clear, drawing twice, and the host's views of the framebuffer. -/

namespace Sys2Proof.Machine

/-! ### Drawing twice (R204) -/

/-- Inverting the same cells twice restores the framebuffer. -/
theorem InvertsCovered.eq_of_twice {covers : Fin 64 → Fin 32 → Prop} {a b c : FrameBuffer}
    (hab : InvertsCovered covers a b) (hbc : InvertsCovered covers b c) : c = a := by
  refine fb_ext fun sx sy => ?_
  by_cases hc : covers sx sy
  · rw [(hbc sx sy).1 hc, (hab sx sy).1 hc, Bool.not_not]
  · rw [(hbc sx sy).2 hc, (hab sx sy).2 hc]

/-- A covered cell is on afterwards exactly when it was off before. -/
theorem InvertsCovered.on_iff_was_off {covers : Fin 64 → Fin 32 → Prop} {a b : FrameBuffer}
    (h : InvertsCovered covers a b) {sx : Fin 64} {sy : Fin 32} (hc : covers sx sy) :
    b.get sx sy = true ↔ a.get sx sy = false := by
  rw [(h sx sy).1 hc, Bool.not_eq_true']

/-- Settles O30: the second draw inverts the same cells and finds each of them inverted. -/
theorem drawingTwiceRestoresDisplay : Obligations.DrawingTwiceRestoresDisplay := by
  intro fb x y rows r h
  obtain ⟨hpos, hlen, -⟩ := drawSprite_ok h
  obtain ⟨r', h'⟩ : ∃ r', drawSprite r.1 x y rows = .ok r' := ⟨_, drawSprite_eq_ok r.1 x y ⟨hpos, hlen⟩⟩
  obtain ⟨hcells, -⟩ := drawSprite_drawsCovered h
  obtain ⟨hcells', hflag'⟩ := drawSprite_drawsCovered h'
  refine ⟨r', h', hcells.eq_of_twice hcells', hflag'.trans ?_⟩
  rw [or_iff_right Bool.false_ne_true]
  exact exists₂_congr fun sx sy => and_congr_right hcells.on_iff_was_off

/-! ### The host's pixel access (R206, R207) -/

theorem inDisplay_iff {x y : Int} : inDisplay x y = true ↔ 0 ≤ x ∧ x < 64 ∧ 0 ≤ y ∧ y < 32 := by
  simp [inDisplay, and_assoc]

/-- An integer in range is the value of the coordinate made from it. -/
theorem val_ofNat_toNat {n : Nat} [NeZero n] {x : Int} (h0 : 0 ≤ x) (hn : x < n) :
    ((Fin.ofNat n x.toNat).val : Int) = x := by
  rw [Fin.val_ofNat, Nat.mod_eq_of_lt (by omega), Int.toNat_of_nonneg h0]

/-- Settles O31: both calls check the same range, and in it they act on the cell of the coordinates. -/
theorem hostPixelAccessIsBounded : Obligations.HostPixelAccessIsBounded := by
  intro fb x y
  refine ⟨fun hin => ?_, fun hout => ?_⟩
  · have hd := inDisplay_iff.mpr hin
    obtain ⟨hx0, hx, hy0, hy⟩ := hin
    refine ⟨_, _, val_ofNat_toNat hx0 hx, val_ofNat_toNat hy0 hy, if_pos hd, fun b dx dy => ?_⟩
    rw [FrameBuffer.setPixel, if_pos hd, fb_get_set]
  · have hd := mt inDisplay_iff.mp hout
    exact ⟨if_neg hd, fun b => if_neg hd⟩

/-! ### The host's count of the cells that are on (R208) -/

theorem sum_map_toList_eq_sum {α : Type} {n : Nat} (v : Vector α n) (f : α → Nat) :
    (v.toList.map f).sum = ∑ k : Fin n, f v[k] := by
  obtain ⟨⟨l⟩, rfl⟩ := v
  exact (Fin.sum_univ_fun_getElem l f).symm

theorem count_toList_eq_card {n : Nat} (v : Vector Bool n) :
    v.toList.count true = (Finset.univ.filter (fun k : Fin n => v[k] = true)).card :=
  (Fin.card_filter_univ_eq_vector_get_eq_count true ⟨v.toList, v.length_toList⟩).symm

/-- The scan row by row meets every cell once. -/
theorem pixelsOn_eq_card (fb : FrameBuffer) :
    fb.pixelsOn = (Finset.univ.filter (fun c : Fin 64 × Fin 32 => fb.get c.1 c.2 = true)).card := by
  calc fb.pixelsOn = ∑ sy : Fin 32, fb.rows[sy].toList.count true := sum_map_toList_eq_sum fb.rows _
    _ = ∑ sy : Fin 32, (Finset.univ.filter (fun sx : Fin 64 => fb.get sx sy = true)).card :=
      Finset.sum_congr rfl fun sy _ => count_toList_eq_card fb.rows[sy]
    _ = _ := by simp only [Finset.card_filter, Fintype.sum_prod_type_right]

/-- Settles O32: the call is one answer, and its count is the scan's. -/
theorem statsCountsCellsOn : Obligations.StatsCountsCellsOn := fun s =>
  ⟨by rw [← pixelsOn_eq_card]; rfl, answer_onlyChanges s _⟩

/-! ### Clear (R202) -/

/-- Settles O27: Clear is one framebuffer write. -/
theorem clearTurnsEveryCellOff : Obligations.ClearTurnsEveryCellOff :=
  ⟨decodeOfEncodeGivesInstruction .clear, fun s =>
    ⟨_, rfl, fb_get_clear s.fb, setFb_onlyChanges s s.fb.clear⟩⟩

end Sys2Proof.Machine
end

section
/-! Input and timers within an instruction (45_input_timers.md): WaitKey takes a key or enters the waiting state (R222), and
the three timer moves copy a byte (R223 to R225). -/

namespace Sys2Proof.Machine

/-! ### WaitKey (R222) -/

theorem exec_waitKey_of_some {s : State} {k : Key} (x : RegIdx) (h : s.takeKey.1 = some k) :
    exec (.waitKey x) s = .next (s.takeKey.2.setV x (keyByte k)) := by
  simp only [exec, execWaitKey, h]

theorem exec_waitKey_of_none {s : State} (x : RegIdx) (h : s.takeKey.1 = none) :
    exec (.waitKey x) s = .next { s.takeKey.2 with execState := .waitingForKey x } := by
  simp only [exec, execWaitKey, h]

/-- Settles O34: one question to the input, then one write on top of it: of V[x] if a key was taken, else of Exec. -/
theorem waitKeyTakesKeyOrWaits : Obligations.WaitKeyTakesKeyOrWaits := by
  intro x
  refine ⟨decodeOfEncodeGivesInstruction (.waitKey x), fun s => ?_⟩
  obtain ⟨hinjected, hfree⟩ := takeKey_oracle s
  have htake := takeKey_onlyChanges s
  cases hk : s.takeKey.1 with
  | some k =>
    rw [hk] at hinjected hfree
    refine ⟨_, some k, exec_waitKey_of_some x hk, ?_, nofun, hinjected, hfree⟩
    rintro _ ⟨⟩
    refine ⟨?_, (htake.trans (setV_onlyChanges _ x _)).mono fun _ => Or.symm⟩
    rw [setV_getV, if_pos rfl, keyByte_toNat]
  | none =>
    rw [hk] at hinjected hfree
    refine ⟨_, none, exec_waitKey_of_none x hk, nofun, fun _ => ⟨rfl, ?_⟩, hinjected, hfree⟩
    exact (htake.trans (setExecState_onlyChanges _ _)).mono fun _ => Or.symm

/-! ### The timer moves (R223 to R225) -/

theorem shouldBeep_iff (s : State) : s.shouldBeep = true ↔ s.st.toNat > 0 :=
  decide_eq_true_iff

/-- Settles O36: LoadDelay is one register write, SetDelay and SetSound are one write of a timer. -/
theorem timerMovesCopyBytes : Obligations.TimerMovesCopyBytes := fun x =>
  ⟨decodeOfEncodeGivesInstruction (.loadDelay x), decodeOfEncodeGivesInstruction (.setDelay x),
    decodeOfEncodeGivesInstruction (.setSound x), fun s =>
      ⟨exec_of_setV rfl,
        ⟨_, rfl, rfl, setDt_onlyChanges s (s.getV x)⟩,
        ⟨_, rfl, rfl, shouldBeep_iff _, setSt_onlyChanges s (s.getV x)⟩⟩⟩

end Sys2Proof.Machine
end

section
/-! Timer ticks (60_exceptions.md R250, R251): one tick, and the closed form of `n` ticks as iteration. -/

namespace Sys2Proof.Machine

/-- Settles O37: each timer is a natural subtraction, and the tick writes the two timers alone. -/
theorem tickCountsDownToZero : Obligations.TickCountsDownToZero := fun s =>
  ⟨tickDown_toNat s.dt, tickDown_toNat s.st, updateTimers_onlyChanges s⟩

theorem tickDownBy_zero (t : Byte) : tickDownBy 0 t = t :=
  BitVec.eq_of_toNat_eq (tickDownBy_toNat 0 t)

/-- Natural subtraction stops at 0, so one more tick takes one more away. -/
theorem tickDownBy_succ (n : Nat) (t : Byte) : tickDownBy (n + 1) t = tickDown (tickDownBy n t) := by
  apply BitVec.eq_of_toNat_eq
  rw [tickDown_toNat, tickDownBy_toNat, tickDownBy_toNat, Nat.sub_add_eq]

theorem tickMany_zero (s : State) : s.tickMany 0 = s := by
  rw [State.tickMany, tickDownBy_zero, tickDownBy_zero]

theorem tickMany_succ (n : Nat) (s : State) : s.tickMany (n + 1) = (s.tickMany n).updateTimers := by
  rw [State.tickMany, tickDownBy_succ, tickDownBy_succ]
  rfl

/-- Settles O38, by induction on the number of ticks: the closed form takes up one tick at a time. -/
theorem manyTicksAreRepeatedTicks : Obligations.ManyTicksAreRepeatedTicks := by
  intro n s
  induction n with
  | zero => exact tickMany_zero s
  | succ n ih => rw [tickMany_succ, ih, Function.iterate_succ_apply']

end Sys2Proof.Machine
end
